-- ==== Sys2Proof/Word.lean ====
section
/-! DEFINITION. The machine word of the 4-bit CPU. -/

namespace Sys2Proof

/-- A nibble, "a 4-bit value, the machine's native word size" (00_scope.md section 6, R10): what A, B,
C, an opcode cell, an operand cell and every memory cell hold (10_state.md R21, R32). -/
abbrev Nibble := BitVec 4

end Sys2Proof
end

