-- ==== Sys2Proof/Config.lean ====
section
/-! DEFINITION. The parameters the spec leaves OPEN, their constraints, the fixed program origin (00_scope.md R7,
R8), and the one free value. -/

namespace Sys2Proof

/-- The two OPEN parameters of the design (00_scope.md R7). They are configuration: no operation of the
model changes them, and every statement quantifies over them (log entry 1). -/
structure Config where
  /-- `AW`, the width of an address; MEM_SIZE is 2 ^ AW (R7, R8: a power of two). -/
  addrWidth : Nat
  /-- `STACK_BOUNDARY`, the value of SP at and above which a push is refused. -/
  stackBoundary : Nat
  deriving DecidableEq, Repr

/-- `MEM_SIZE`, the number of memory cells: 2 ^ AW (R7, R8). -/
def Config.memSize (c : Config) : Nat := 2 ^ c.addrWidth

/-- The constraints of R7 and R8: MEM_SIZE at least 32, and 1 <= STACK_BOUNDARY <= MEM_SIZE - 1. -/
abbrev Config.Valid (c : Config) : Prop :=
  32 ≤ c.memSize ∧ 1 ≤ c.stackBoundary ∧ c.stackBoundary ≤ c.memSize - 1

/-- The reference configuration of 95_test_vectors.md section 0: MEM_SIZE 32, STACK_BOUNDARY 15. -/
def Config.reference : Config := { addrWidth := 5, stackBoundary := 15 }

/-- The other observed memory size (R7), 256 cells, with the reference boundary. -/
def Config.large : Config := { addrWidth := 8, stackBoundary := 15 }

/-- `PROGRAM_ORIGIN`: where load() writes the first program cell, what a jump is relative to, and the
reset value of PC (R7: fixed at 15; 10_state.md R36). -/
def programOrigin : Nat := 15

/-- The free value on the port `diag_v` in the clock of the given number, where no step raised a diagnostic in it:
50_host_interface.md R176 gives `diag_v` for the clock of a diagnostic alone (DESIGN CHOICE, log entry 15). No body,
so nothing can be proved of it. -/
opaque Config.undrivenDiagV : Nat → Nibble

end Sys2Proof
end

