-- ==== Sys2Proof/Machine/State.lean ====
section
/-! DEFINITION. The state of the Machine (10_state.md R20), the reasons a step can stop, and the state
after reset (R35, 70_reset_and_hazards.md R200). -/

namespace Sys2Proof.Machine

/-- Why the machine stops with a fault: never. "The machine never traps" (60_exceptions.md R180): every step
completes (40_step_cycle.md R90), so this type has no constructor. -/
inductive Fault where
  deriving DecidableEq, Repr

/-- Why a step has no meaning. Every one of the 256 instruction words has one (30_encoding.md R76). -/
inductive Refusal where
  /-- An instruction whose arm of `exec` has no meaning yet; raised by `exec` alone. Safe: nothing is
  claimed of it. No arm raises it. -/
  | notModelled (mnemonic : String)
  deriving DecidableEq, Repr

/-- An event on the diagnostic channel, "one output that is not state" (50_host_interface.md R175). -/
inductive Diagnostic where
  /-- `(InvalidSecondaryOperand, V)`, emitted by INVSEC (45_control.md R141, 60_exceptions.md R183). -/
  | invalidSecondaryOperand (v : Nibble)
  deriving DecidableEq, Repr

/-- Memory cells by address, in rising order of address, holding no cell that reads as an unlisted one
(log entry 3). A cell is exactly 4 bits (10_state.md R32). -/
abbrev Memory := List (Nat × Nibble)

/-- The state record of 10_state.md R20, with the configuration it belongs to and the diagnostics
emitted so far. -/
structure State where
  /-- The OPEN parameters (00_scope.md R7); configuration, never changed (log entry 1). -/
  cfg : Config
  /-- `A`, the accumulator (R21, R22). -/
  a : Nibble
  /-- `B` (R21, R22). -/
  b : Nibble
  /-- `C` (R21, R22). -/
  c : Nibble
  /-- `PC`: the address of the next pair, below MEM_SIZE (R23, R25; log entry 2). -/
  pc : Nat
  /-- `SP`: the address the next push writes (R26, R27; log entry 2). -/
  sp : Nat
  /-- `F.Carry`, F[0] (R28, R29). -/
  carry : Bool
  /-- `F.Negative`, F[1] (R28, R29). -/
  negative : Bool
  /-- `F.Equal`, F[2] (R28, R29). -/
  equal : Bool
  /-- `F.Error`, F[3], sticky (R28, R29, 46_stack.md R158). -/
  error : Bool
  /-- `HALTREQ`, the halt request to the run driver (R31). -/
  haltReq : Bool
  /-- `M`, the one memory (R32, 20_memory.md R50). -/
  mem : Memory
  /-- The diagnostics emitted so far, oldest first; read by nothing (50_host_interface.md R175; log entry 4). -/
  diags : List Diagnostic
  deriving DecidableEq, Repr

/-- The state after reset, for every configuration (10_state.md R35, R36; 70_reset_and_hazards.md R200):
PC is the origin, HALTREQ is 1, everything else is 0, memory included. -/
def State.resetWith (cfg : Config) : State where
  cfg := cfg
  a := 0
  b := 0
  c := 0
  pc := programOrigin
  sp := 0
  carry := false
  negative := false
  equal := false
  error := false
  haltReq := true
  mem := []
  diags := []

/-- The machine right after reset, in the reference configuration of 95_test_vectors.md section 0
(log entry 1). -/
def State.reset : State := State.resetWith Config.reference

end Sys2Proof.Machine
end

