-- ==== Sys2Proof/Machine/Ops.lean ====
section
/-! DEFINITION. The named operations over registers, memory and the stack, and what an anomaly records.
The machine has no trap, so taking an exception and returning from one have no operation (60_exceptions.md
R180, R187, R188); the anomalies that it has instead are `raiseStackError` and `emitDiagnostic`. -/

namespace Sys2Proof.Machine

/-- `SKIP_DISTANCE`: the extra PC advance of a taken skip, in cells (00_scope.md R7). -/
def skipDistance : Nat := 2

/-! Register writes: `x <- v` of 00_scope.md R11. -/

def State.setA (s : State) (x : Nibble) : State := { s with a := x }
def State.setB (s : State) (x : Nibble) : State := { s with b := x }
def State.setC (s : State) (x : Nibble) : State := { s with c := x }
def State.setPc (s : State) (x : Nat) : State := { s with pc := x }
def State.setSp (s : State) (x : Nat) : State := { s with sp := x }
def State.setCarry (s : State) (x : Bool) : State := { s with carry := x }
def State.setNegative (s : State) (x : Bool) : State := { s with negative := x }
def State.setEqual (s : State) (x : Bool) : State := { s with equal := x }
def State.setError (s : State) (x : Bool) : State := { s with error := x }
def State.setHaltReq (s : State) (x : Bool) : State := { s with haltReq := x }
def State.setMem (s : State) (m : Memory) : State := { s with mem := m }
def State.setDiags (s : State) (ds : List Diagnostic) : State := { s with diags := ds }

/-! Memory: "a function from addresses to nibbles updated in place" (20_memory.md R59), kept as a list. -/

/-- What an unlisted cell reads as: reset leaves every cell 0 (10_state.md R35). -/
def unlistedCell : Nibble := 0

/-- The value of one cell of a memory. -/
def cellAt : Memory → Nat → Nibble
  | [], _ => unlistedCell
  | (k, w) :: m, x => if k = x then w else cellAt m x

/-- A memory with no entry at address `x`. -/
def dropCell (m : Memory) (x : Nat) : Memory := m.filter (fun e => e.1 != x)

/-- An entry put in its place in the rising order of addresses. -/
def insertCell : Memory → Nat → Nibble → Memory
  | [], x, v => [(x, v)]
  | (k, w) :: m, x, v => if x < k then (x, v) :: (k, w) :: m else (k, w) :: insertCell m x v

/-- A memory with one cell written, in canonical form. -/
def putCell (m : Memory) (x : Nat) (v : Nibble) : Memory :=
  if v = unlistedCell then dropCell m x else insertCell (dropCell m x) x v

/-- The canonical form: addresses strictly rising, no entry that reads as an unlisted cell. -/
abbrev Memory.wf (m : Memory) : Prop :=
  m.Pairwise (fun e f => e.1 < f.1) ∧ ∀ e ∈ m, e.2 ≠ unlistedCell

/-- `MemRead(x, 1)`, which returns M[x mod MEM_SIZE] and cannot fail (00_scope.md R12). -/
def memRead (s : State) (x : Nat) : Nibble := cellAt s.mem (x % s.cfg.memSize)

/-- `MemWrite(x, 1, v)`, which does M[x mod MEM_SIZE] <- v and cannot fail (00_scope.md R12). -/
def memWrite (s : State) (x : Nat) (v : Nibble) : State :=
  s.setMem (putCell s.mem (x % s.cfg.memSize) v)

/-! The program counter. -/

/-- An address some cells further on, "taken `mod MEM_SIZE`" (10_state.md R25, 20_memory.md R53). -/
def addrPlus (cfg : Config) (x d : Nat) : Nat := (x + d) % cfg.memSize

/-- `PC <- PC mod MEM_SIZE`, the first action of a step (40_step_cycle.md R91). -/
def normalisePc (s : State) : State := s.setPc (s.pc % s.cfg.memSize)

/-- The common part of the skips: if the flag is 1, PC moves SKIP_DISTANCE cells further
(45_control.md R137). -/
def skipIf (flag : Bool) (s : State) : State :=
  if flag then s.setPc (addrPlus s.cfg s.pc skipDistance) else s

/-! The anomalies (60_exceptions.md R181) and the stack (46_stack.md R150). -/

/-- What a stack anomaly records: F.Error <- 1 and nothing else (46_stack.md R150, 60_exceptions.md R182). -/
def raiseStackError (s : State) : State := s.setError true

/-- `diag(InvalidSecondaryOperand, V)`: one event on the diagnostic channel (50_host_interface.md R175). -/
def emitDiagnostic (d : Diagnostic) (s : State) : State := s.setDiags (s.diags ++ [d])

/-- `stackFull = (SP >= STACK_BOUNDARY)`, tested by PUSH and PUSHPC (46_stack.md R150). -/
def stackFull (s : State) : Bool := decide (s.cfg.stackBoundary ≤ s.sp)

/-- `stackEmpty = (SP = 0)`, tested by POP and POPPC (46_stack.md R150). -/
def stackEmpty (s : State) : Bool := decide (s.sp = 0)

/-- The push shared by PUSH and PUSHPC: the write goes to the old SP, then SP is incremented
(46_stack.md R152, R155). -/
def pushCell (v : Nibble) (s : State) : State :=
  if stackFull s then raiseStackError s
  else (memWrite s s.sp v).setSp (s.sp + 1)

/-- The pop shared by POP and POPPC: SP is decremented, and `use` takes the cell read at the new SP
(46_stack.md R153, R156). -/
def popCell (use : Nibble → State → State) (s : State) : State :=
  if stackEmpty s then raiseStackError s
  else use (memRead s (s.sp - 1)) (s.setSp (s.sp - 1))

end Sys2Proof.Machine
end

