-- ==== Sys2Proof/Machine/Operands.lean ====
section
/-! DEFINITION. Every use of the operand cell `V` that 30_encoding.md R73 lists, and the four bits of PC
that PUSHPC stores. -/

namespace Sys2Proof.Machine

/-- The immediate datum: `V` itself, 0 to 15, never sign-extended (R73). -/
def immediate (v : Nibble) : Nibble := v

/-- `zext_AW(v)`: a nibble seen as an address (R73, 00_scope.md R10). -/
def zextAddr (v : Nibble) : Nat := v.toNat

/-- The direct address: the cell `M[V]`, address 0 to 15 (R73). -/
def directAddr (v : Nibble) : Nat := zextAddr v

/-- The cell at the direct address (R73). -/
def directCell (s : State) (v : Nibble) : Nibble := memRead s (directAddr v)

/-- The jump target `(15 + V) mod MEM_SIZE` (R73, 45_control.md R135). -/
def jumpTarget (cfg : Config) (v : Nibble) : Nat := addrPlus cfg programOrigin v.toNat

/-- The new SP of SSP (R73, 46_stack.md R151). -/
def spOperand (v : Nibble) : Nat := zextAddr v

/-- `PC[3:0]`, the part of PC that fits in a cell (46_stack.md R155). -/
def pcLowNibble (s : State) : Nibble := BitVec.ofNat 4 s.pc

end Sys2Proof.Machine
end

