-- ==== Sys2Proof/Machine/Flags.lean ====
section
/-! DEFINITION. The truncation law and every flag computation (43_arithmetic.md R115 to R121, 42_compare.md
R110, 10_state.md R28, R29), and the three operations that set flags. -/

namespace Sys2Proof.Machine

/-- `TRUNC_MOD`: the modulus of the add and subtract truncation (00_scope.md R7). -/
def truncMod : Int := 15

/-- `trunc15(x) = x mod 15` with the floored remainder of 00_scope.md R10, result 0 to 14
(43_arithmetic.md R115, R120). -/
def trunc15 (x : Int) : Nibble := BitVec.ofNat 4 (x % truncMod).toNat

/-- The untruncated sum `A + x`, an unbounded integer (43_arithmetic.md R116). -/
def wideSum (x y : Nibble) : Int := (x.toNat : Int) + (y.toNat : Int)

/-- The untruncated difference `A - x`, an unbounded integer (43_arithmetic.md R117). -/
def wideDiff (x y : Nibble) : Int := (x.toNat : Int) - (y.toNat : Int)

/-- F.Carry of an add: 1 if the untruncated sum > 15 (10_state.md R29). -/
def carryOfSum (x : Int) : Bool := decide (x > 15)

/-- F.Carry and F.Negative of a subtract: 1 if the untruncated difference < 0 (10_state.md R29). -/
def borrowOfDiff (x : Int) : Bool := decide (x < 0)

/-- F.Equal of a compare: 1 if the nibbles are identical (42_compare.md R110). -/
def equalOf (x y : Nibble) : Bool := decide (x = y)

/-- The add shared by ADD and ADI (43_arithmetic.md R116, R118): F.Carry and A, nothing else. -/
def addToA (x : Nibble) (s : State) : State :=
  (s.setCarry (carryOfSum (wideSum s.a x))).setA (trunc15 (wideSum s.a x))

/-- The subtract shared by SUB and SBI (43_arithmetic.md R117, R119): F.Carry, F.Negative and A. -/
def subFromA (x : Nibble) (s : State) : State :=
  ((s.setCarry (borrowOfDiff (wideDiff s.a x))).setNegative (borrowOfDiff (wideDiff s.a x))).setA
    (trunc15 (wideDiff s.a x))

/-- The compare shared by CMP and CMPF (42_compare.md R110, R111): F.Equal, nothing else. -/
def compareA (x : Nibble) (s : State) : State := s.setEqual (equalOf s.a x)

/-- The nibble view of F, `{F.Error, F.Equal, F.Negative, F.Carry}` (10_state.md R28): notation of the
test vectors and of the suggested port `f_q`; no instruction uses it. -/
def flagNibble (s : State) : Nibble :=
  BitVec.ofNat 4 (s.carry.toNat + 2 * s.negative.toNat + 4 * s.equal.toNat + 8 * s.error.toNat)

end Sys2Proof.Machine
end

