-- ==== Sys2Proof/Machine/Arithmetic.lean ====
section
/-! DEFINITION. Add and subtract under the truncation law (43_arithmetic.md). -/

namespace Sys2Proof.Machine

/-- `ADD V`: add the cell M[V] (R116). -/
def execAdd (v : Nibble) (s : State) : Host.Outcome State Fault Refusal :=
  .next (addToA (directCell s v) s)

/-- `SUB V`: subtract the immediate V, not a cell (R117). -/
def execSub (v : Nibble) (s : State) : Host.Outcome State Fault Refusal :=
  .next (subFromA (immediate v) s)

/-- `ADI V`: add the immediate V (R118). -/
def execAdi (v : Nibble) (s : State) : Host.Outcome State Fault Refusal :=
  .next (addToA (immediate v) s)

/-- `SBI V`: subtract the immediate V (R119). -/
def execSbi (v : Nibble) (s : State) : Host.Outcome State Fault Refusal :=
  .next (subFromA (immediate v) s)

end Sys2Proof.Machine
end

