-- ==== Sys2Proof/Machine/Compare.lean ====
section
/-! DEFINITION. Compare (42_compare.md). -/

namespace Sys2Proof.Machine

/-- `CMP V`: F.Equal <- (A = V) (R110). -/
def execCmp (v : Nibble) (s : State) : Host.Outcome State Fault Refusal :=
  .next (compareA (immediate v) s)

/-- `CMPF V`: the state effect of CMP, and no diagnostic (R111, 30_encoding.md R79; log entry 10). -/
def execCmpf (v : Nibble) (s : State) : Host.Outcome State Fault Refusal :=
  .next (compareA (immediate v) s)

end Sys2Proof.Machine
end

