-- ==== Sys2Proof/Machine/Control.lean ====
section
/-! DEFINITION. Jump, no-op, the conditional skips and the invalid secondary encodings (45_control.md). PC
already holds the next-pair address when a meaning runs (40_step_cycle.md R95). -/

namespace Sys2Proof.Machine

/-- `JMP V`: PC <- (15 + V) mod MEM_SIZE (R135). -/
def execJmp (v : Nibble) (s : State) : Host.Outcome State Fault Refusal :=
  .next (s.setPc (jumpTarget s.cfg v))

/-- `NOP`: nothing (R136). -/
def execNop (s : State) : Host.Outcome State Fault Refusal :=
  .next s

/-- `SKC`: skip the next pair if F.Carry (R138). -/
def execSkc (s : State) : Host.Outcome State Fault Refusal :=
  .next (skipIf s.carry s)

/-- `SKN`: skip the next pair if F.Negative (R139). -/
def execSkn (s : State) : Host.Outcome State Fault Refusal :=
  .next (skipIf s.negative s)

/-- `SKE`: skip the next pair if F.Equal (R140). -/
def execSke (s : State) : Host.Outcome State Fault Refusal :=
  .next (skipIf s.equal s)

/-- `INVSEC V`: one diagnostic, no state change; F.Error is not set (R141; log entry 11). -/
def execInvsec (v : Nibble) (s : State) : Host.Outcome State Fault Refusal :=
  .next (emitDiagnostic (.invalidSecondaryOperand v) s)

end Sys2Proof.Machine
end

