-- ==== Sys2Proof/Machine/LoadStore.lean ====
section
/-! DEFINITION. Load, store, immediate load and register swaps (41_load_store_swap.md). -/

namespace Sys2Proof.Machine

/-- `LDA V`: A <- MemRead(V, 1) (R100). -/
def execLda (v : Nibble) (s : State) : Host.Outcome State Fault Refusal :=
  .next (s.setA (directCell s v))

/-- `STA V`: MemWrite(V, 1, A) (R101). -/
def execSta (v : Nibble) (s : State) : Host.Outcome State Fault Refusal :=
  .next (memWrite s (directAddr v) s.a)

/-- `LDI V`: A <- V (R102). -/
def execLdi (v : Nibble) (s : State) : Host.Outcome State Fault Refusal :=
  .next (s.setA (immediate v))

/-- `SWAB`: exchange A and B, both read before either is written (R103). -/
def execSwab (s : State) : Host.Outcome State Fault Refusal :=
  .next ((s.setA s.b).setB s.a)

/-- `SWBC`: exchange B and C, both read before either is written (R104). -/
def execSwbc (s : State) : Host.Outcome State Fault Refusal :=
  .next ((s.setB s.c).setC s.b)

end Sys2Proof.Machine
end

