-- ==== Sys2Proof/Machine/Logic.lean ====
section
/-! DEFINITION. Bitwise logic (44_logic.md): no flag, no truncation. -/

namespace Sys2Proof.Machine

/-- `AND V`: A[i] <- A[i] and V[i] (R125). -/
def execAnd (v : Nibble) (s : State) : Host.Outcome State Fault Refusal :=
  .next (s.setA (s.a &&& immediate v))

/-- `XOR V`: A[i] <- A[i] xor V[i] (R126). -/
def execXor (v : Nibble) (s : State) : Host.Outcome State Fault Refusal :=
  .next (s.setA (s.a ^^^ immediate v))

/-- `OR V`: A[i] <- A[i] or V[i] (R127). -/
def execOr (v : Nibble) (s : State) : Host.Outcome State Fault Refusal :=
  .next (s.setA (s.a ||| immediate v))

/-- `NOT`: A[i] <- not A[i], of the four bits only (R128). -/
def execNot (s : State) : Host.Outcome State Fault Refusal :=
  .next (s.setA (~~~ s.a))

end Sys2Proof.Machine
end

