-- ==== Sys2Proof/Machine/Stack.lean ====
section
/-! DEFINITION. The stack pointer and the stack instructions (46_stack.md). -/

namespace Sys2Proof.Machine

/-- `SSP V`: SP <- V, with no check (R151). -/
def execSsp (v : Nibble) (s : State) : Host.Outcome State Fault Refusal :=
  .next (s.setSp (spOperand v))

/-- `PUSH`: push A (R152). -/
def execPush (s : State) : Host.Outcome State Fault Refusal :=
  .next (pushCell s.a s)

/-- `POP`: pop into A (R153). -/
def execPop (s : State) : Host.Outcome State Fault Refusal :=
  .next (popCell (fun v t => t.setA v) s)

/-- `PUSHPC`: push PC[3:0], PC being the next-pair address (R155; log entry 9). -/
def execPushpc (s : State) : Host.Outcome State Fault Refusal :=
  .next (pushCell (pcLowNibble s) s)

/-- `POPPC`: pop into PC, zero-extended, with no origin added (R156; log entry 9). -/
def execPoppc (s : State) : Host.Outcome State Fault Refusal :=
  .next (popCell (fun v t => t.setPc (zextAddr v)) s)

end Sys2Proof.Machine
end

