-- ==== Sys2Proof/Syntax.lean ====
section
/-! DEFINITION. The instructions: one constructor per mnemonic of spec/opcode_table.json (30_encoding.md
R74, R75). The table's six INVSEC rows are the six values 10 to 15 of the operand of one constructor
(R83: `INVSEC V`, V 10 to 15; log entry 17). -/

namespace Sys2Proof

/-- An instruction of the set `4BC`. The operand `v` is the operand cell `V` (R73); the secondary
instructions and NOT have none (R72, R78). -/
inductive Instr where
  /-- 0x1V `LDA V`: A := memory[V] (R100). -/
  | lda (v : Nibble)
  /-- 0x2V `STA V`: memory[V] := A (R101). -/
  | sta (v : Nibble)
  /-- 0x3V `CMP V`: F.Equal := (A == V) (R110). -/
  | cmp (v : Nibble)
  /-- 0x4V `ADD V`: add memory[V] to A (R116). -/
  | add (v : Nibble)
  /-- 0x5V `SUB V`: subtract the immediate V from A (R117). -/
  | sub (v : Nibble)
  /-- 0x6V `AND V`: A := A AND V (R125). -/
  | and (v : Nibble)
  /-- 0x7V `XOR V`: A := A XOR V (R126). -/
  | xor (v : Nibble)
  /-- 0x8V `OR V`: A := A OR V (R127). -/
  | or (v : Nibble)
  /-- 0x90 to 0x9F `NOT`: A := NOT A, the operand cell ignored (R128, R78). -/
  | not
  /-- 0xAV `LDI V`: A := V (R102). -/
  | ldi (v : Nibble)
  /-- 0xBV `JMP V`: PC := V + 15 (R135). -/
  | jmp (v : Nibble)
  /-- 0xCV `SSP V`: SP := V (R151). -/
  | ssp (v : Nibble)
  /-- 0xDV `ADI V`: add the immediate V to A (R118). -/
  | adi (v : Nibble)
  /-- 0xEV `SBI V`: subtract the immediate V from A (R119). -/
  | sbi (v : Nibble)
  /-- 0xFV `CMPF V`: F.Equal := (A == V) (R111). -/
  | cmpf (v : Nibble)
  /-- 0x00 `NOP` (R136). -/
  | nop
  /-- 0x01 `PUSH`: push A (R152). -/
  | push
  /-- 0x02 `POP`: pop into A (R153). -/
  | pop
  /-- 0x03 `PUSHPC`: push PC (R155). -/
  | pushpc
  /-- 0x04 `POPPC`: pop into PC (R156). -/
  | poppc
  /-- 0x05 `SWAB`: exchange A and B (R103). -/
  | swab
  /-- 0x06 `SWBC`: exchange B and C (R104). -/
  | swbc
  /-- 0x07 `SKC`: skip the next pair if F.Carry (R138). -/
  | skc
  /-- 0x08 `SKN`: skip the next pair if F.Negative (R139). -/
  | skn
  /-- 0x09 `SKE`: skip the next pair if F.Equal (R140). -/
  | ske
  /-- 0x0A to 0x0F `INVSEC V`: the invalid secondary encodings, V 10 to 15 (R141). -/
  | invsec (v : Nibble)
  deriving DecidableEq, Repr

end Sys2Proof
end

