-- ==== Sys2Proof/Machine/Dispatch.lean ====
section
/-! DEFINITION. `exec`: one arm per instruction (40_step_cycle.md R93, R94). -/

namespace Sys2Proof.Machine

def exec (i : Instr) (s : State) : Host.Outcome State Fault Refusal :=
  match i with
  | .lda v => Sys2Proof.Machine.execLda v s
  | .sta v => Sys2Proof.Machine.execSta v s
  | .cmp v => Sys2Proof.Machine.execCmp v s
  | .add v => Sys2Proof.Machine.execAdd v s
  | .sub v => Sys2Proof.Machine.execSub v s
  | .and v => Sys2Proof.Machine.execAnd v s
  | .xor v => Sys2Proof.Machine.execXor v s
  | .or v => Sys2Proof.Machine.execOr v s
  | .not => Sys2Proof.Machine.execNot s
  | .ldi v => Sys2Proof.Machine.execLdi v s
  | .jmp v => Sys2Proof.Machine.execJmp v s
  | .ssp v => Sys2Proof.Machine.execSsp v s
  | .adi v => Sys2Proof.Machine.execAdi v s
  | .sbi v => Sys2Proof.Machine.execSbi v s
  | .cmpf v => Sys2Proof.Machine.execCmpf v s
  | .nop => Sys2Proof.Machine.execNop s
  | .push => Sys2Proof.Machine.execPush s
  | .pop => Sys2Proof.Machine.execPop s
  | .pushpc => Sys2Proof.Machine.execPushpc s
  | .poppc => Sys2Proof.Machine.execPoppc s
  | .swab => Sys2Proof.Machine.execSwab s
  | .swbc => Sys2Proof.Machine.execSwbc s
  | .skc => Sys2Proof.Machine.execSkc s
  | .skn => Sys2Proof.Machine.execSkn s
  | .ske => Sys2Proof.Machine.execSke s
  | .invsec v => Sys2Proof.Machine.execInvsec v s

end Sys2Proof.Machine
end

