-- ==== Sys2Proof/WellFormed.lean ====
section
/-! DEFINITION. Which terms of `Instr` are instructions: every operand is a nibble by type, so the one
check is INVSEC's operand (30_encoding.md R83: V 10 to 15; R77). -/

namespace Sys2Proof

/-- `true` for the terms that some instruction word encodes (30_encoding.md R76, R77). -/
def Instr.wellFormed : Instr → Bool
  | .invsec v => decide (10 ≤ v.toNat)
  | .lda _ => true
  | .sta _ => true
  | .cmp _ => true
  | .add _ => true
  | .sub _ => true
  | .and _ => true
  | .xor _ => true
  | .or _ => true
  | .not => true
  | .ldi _ => true
  | .jmp _ => true
  | .ssp _ => true
  | .adi _ => true
  | .sbi _ => true
  | .cmpf _ => true
  | .nop => true
  | .push => true
  | .pop => true
  | .pushpc => true
  | .poppc => true
  | .swab => true
  | .swbc => true
  | .skc => true
  | .skn => true
  | .ske => true

end Sys2Proof
end

