-- ==== Sys2Proof/Decode.lean ====
section
/-! DEFINITION. The two-level decoder (30_encoding.md R70 to R81, 40_step_cycle.md R93, R94), the encoder
(R83), and the host's view of one word of spec/opcode_table.json. -/

namespace Sys2Proof

/-- The four bits of a cell, most significant first, as the encoding column of the opcode table
writes them. -/
def cellBits (c : Nibble) : Bool × Bool × Bool × Bool :=
  (c.getLsbD 3, c.getLsbD 2, c.getLsbD 1, c.getLsbD 0)

/-- Secondary dispatch on the operand nibble `V` under primary opcode 0 (R75, R94); the six values 10 to
15 are the invalid secondary encodings (R77). -/
def decodeSecondary (v : Nibble) : Instr :=
  match cellBits v with
  | (false, false, false, false) => .nop
  | (false, false, false, true) => .push
  | (false, false, true, false) => .pop
  | (false, false, true, true) => .pushpc
  | (false, true, false, false) => .poppc
  | (false, true, false, true) => .swab
  | (false, true, true, false) => .swbc
  | (false, true, true, true) => .skc
  | (true, false, false, false) => .skn
  | (true, false, false, true) => .ske
  | (true, false, true, false) => .invsec v
  | (true, false, true, true) => .invsec v
  | (true, true, false, false) => .invsec v
  | (true, true, false, true) => .invsec v
  | (true, true, true, false) => .invsec v
  | (true, true, true, true) => .invsec v

/-- Primary dispatch on the opcode cell (R74, R93). The sixteen arms cover every cell value; there is no
default arm (R80). -/
def decodePair (op v : Nibble) : Instr :=
  match cellBits op with
  | (false, false, false, false) => decodeSecondary v
  | (false, false, false, true) => .lda v
  | (false, false, true, false) => .sta v
  | (false, false, true, true) => .cmp v
  | (false, true, false, false) => .add v
  | (false, true, false, true) => .sub v
  | (false, true, true, false) => .and v
  | (false, true, true, true) => .xor v
  | (true, false, false, false) => .or v
  | (true, false, false, true) => .not
  | (true, false, true, false) => .ldi v
  | (true, false, true, true) => .jmp v
  | (true, true, false, false) => .ssp v
  | (true, true, false, true) => .adi v
  | (true, true, true, false) => .sbi v
  | (true, true, true, true) => .cmpf v

/-- Why a list of cells does not begin with an instruction. Every pair of cells is an instruction (R76),
so the one reason is that there is no pair. -/
inductive DecodeError where
  /-- Fewer than the two cells of an instruction (R70, R81). Raised by `decode` only; a fetch always has
  two cells (20_memory.md R54). Safe: nothing is given a meaning. -/
  | tooFewCells
  deriving DecidableEq, Repr

/-- The instruction at the front of a list of cells, opcode cell first (R70, R82), and the cells after it. -/
def decode : List Nibble → Except DecodeError (Instr × List Nibble)
  | op :: v :: rest => .ok (decodePair op v, rest)
  | [_] => .error .tooFewCells
  | [] => .error .tooFewCells

/-- The two cells of an instruction, in address order (R83; NOT yields 0x9, 0x0). -/
def encode : Instr → List Nibble
  | .lda v => [0x1, v]
  | .sta v => [0x2, v]
  | .cmp v => [0x3, v]
  | .add v => [0x4, v]
  | .sub v => [0x5, v]
  | .and v => [0x6, v]
  | .xor v => [0x7, v]
  | .or v => [0x8, v]
  | .not => [0x9, 0x0]
  | .ldi v => [0xA, v]
  | .jmp v => [0xB, v]
  | .ssp v => [0xC, v]
  | .adi v => [0xD, v]
  | .sbi v => [0xE, v]
  | .cmpf v => [0xF, v]
  | .nop => [0x0, 0x0]
  | .push => [0x0, 0x1]
  | .pop => [0x0, 0x2]
  | .pushpc => [0x0, 0x3]
  | .poppc => [0x0, 0x4]
  | .swab => [0x0, 0x5]
  | .swbc => [0x0, 0x6]
  | .skc => [0x0, 0x7]
  | .skn => [0x0, 0x8]
  | .ske => [0x0, 0x9]
  | .invsec v => [0x0, v]

/-- `IW[7:4]`, the opcode cell, the cell at the lower address (00_scope.md R14). -/
def wordOpcode (iw : Nat) : Nibble := BitVec.ofNat 4 (iw / 16)

/-- `IW[3:0]`, the operand cell (00_scope.md R14). -/
def wordOperand (iw : Nat) : Nibble := BitVec.ofNat 4 iw

/-- The 8-bit instruction word `IW` in the low `nbits` bits of `w`, the bits above them being 0. -/
def tableWord (nbits w : Nat) : Nat := w % 2 ^ nbits

/-- The instruction the decoder reads from a word numbered as spec/opcode_table.json numbers it: bits
7:4 the opcode cell, bits 3:0 the operand cell (00_scope.md R14, 92_eei_decisions.md D18). -/
def decodeTableWord (nbits w : Nat) : Option Instr :=
  match decode [wordOpcode (tableWord nbits w), wordOperand (tableWord nbits w)] with
  | .ok (i, _) => some i
  | .error _ => none

end Sys2Proof
end

