-- ==== Sys2Proof/Machine/Fetch.lean ====
section
/-! DEFINITION. Fetching an instruction pair (40_step_cycle.md R92) and placing one where the next step
fetches it. -/

namespace Sys2Proof.Machine

/-- What `fetch()` returns, with the state it leaves: PC two cells further, everything else as it was. -/
structure Fetched where
  op : Nibble
  v : Nibble
  after : State
  deriving DecidableEq, Repr

/-- `fetch()`: the cell at PC, PC one further, the cell at the new PC, PC one further again, each
increment `mod MEM_SIZE` (R92, 20_memory.md R54; log entry 5). -/
def fetch (s : State) : Fetched :=
  let s₁ := s.setPc (addrPlus s.cfg s.pc 1)
  { op := memRead s s.pc
    v := memRead s₁ s₁.pc
    after := s₁.setPc (addrPlus s₁.cfg s₁.pc 1) }

/-- The instruction of a fetched pair (R93). -/
def fetchedInstr (f : Fetched) : Instr := decodePair f.op f.v

/-- A state with the pair (op, v) stored where the next step fetches it: the opcode cell at PC, the
operand cell at the next address (20_memory.md R54, R56). -/
def placePair (s : State) (op v : Nibble) : State :=
  memWrite (memWrite s s.pc op) (addrPlus s.cfg s.pc 1) v

end Sys2Proof.Machine
end

