-- ==== Sys2Proof/Machine/Step.lean ====
section
/-! DEFINITION. `step()`: normalise PC, fetch one pair, execute it (40_step_cycle.md R90). -/

namespace Sys2Proof.Machine

/-- The one transition of the Machine (R90). -/
def step (s : State) : Host.Outcome State Fault Refusal :=
  exec (fetchedInstr (fetch (normalisePc s))) (fetch (normalisePc s)).after

/-- `s` with the instruction of a table word stored where `step` fetches next (log entry 16). -/
def State.withFetchWord (s : State) (nbits w : Nat) : State :=
  placePair s (wordOpcode (tableWord nbits w)) (wordOperand (tableWord nbits w))

end Sys2Proof.Machine
end

