-- ==== Sys2Proof/Machine/HostOps.lean ====
section
/-! DEFINITION. What the host may do to the Machine, between steps (50_host_interface.md): reset(), load(),
step(), run and stop, and the reads. It "has no other way to change the Machine" (R165). -/

namespace Sys2Proof.Machine

/-- `reset()`, from any state (R166, 70_reset_and_hazards.md R200). Diagnostics already emitted stay emitted
(log entry 4). -/
def hostReset (s : State) : State := (State.resetWith s.cfg).setDiags s.diags

/-- The cells load() may write: MEM_SIZE - 15 (R168). -/
def loadCapacity (cfg : Config) : Nat := cfg.memSize - programOrigin

/-- The values of a sequence written into consecutive cells from address `x` upward (R168). -/
def writeCells : List Nibble → Nat → State → State
  | [], _, s => s
  | v :: vs, x, s => writeCells vs (x + 1) (memWrite s x v)

/-- What load() answers to its caller (R168, R169). -/
inductive LoadResult where
  /-- The sequence was written. -/
  | loaded (s : State)
  /-- `CapacityExceeded`: the sequence is longer than MEM_SIZE - 15; nothing was written (R169). -/
  | capacityExceeded
  deriving DecidableEq, Repr

/-- `load(seq)` (R168, R169): cells 15 upward and nothing else, or nothing at all. -/
def load (seq : List Nibble) (s : State) : LoadResult :=
  if seq.length ≤ loadCapacity s.cfg then .loaded (writeCells seq programOrigin s)
  else .capacityExceeded

/-- The driver's `run` clears HALTREQ as it starts stepping (R173). -/
def hostRun (s : State) : State := s.setHaltReq false

/-- The run driver: it polls HALTREQ before each step and stops when it reads 1 (R172, R173); `fuel` is how
many steps the host lets it make (log entry 19). -/
def drive : Nat → State → Host.Outcome State Fault Refusal
  | 0, s => .next s
  | fuel + 1, s =>
    if s.haltReq then .next s
    else
      match step s with
      | .next t => drive fuel t
      | .fault r => .fault r
      | .refused r => .refused r

/-- What the host can read (R167). -/
inductive ReadItem where
  | regA
  | regB
  | regC
  | pc
  | sp
  /-- `F[i]`: 0 Carry, 1 Negative, 2 Equal, 3 Error (10_state.md R28). -/
  | flag (i : Fin 4)
  | cell (x : Nat)
  | haltReq
  deriving DecidableEq, Repr

/-- The flag vector `F[0..3]` (10_state.md R28). -/
def flagAt (s : State) (i : Fin 4) : Bool :=
  match i with
  | 0 => s.carry
  | 1 => s.negative
  | 2 => s.equal
  | 3 => s.error

/-- A read accessor (R167): the current value, as a number. -/
def readItem (s : State) : ReadItem → Nat
  | .regA => s.a.toNat
  | .regB => s.b.toNat
  | .regC => s.c.toNat
  | .pc => s.pc
  | .sp => s.sp
  | .flag i => (flagAt s i).toNat
  | .cell x => (memRead s x).toNat
  | .haltReq => s.haltReq.toNat

/-- The host's moves (R165, R174). -/
inductive HostMove where
  | reset
  | load (seq : List Nibble)
  | step
  | run
  | stop
  | read (item : ReadItem)
  deriving DecidableEq, Repr

/-- What the machine gives back to a move (R174). -/
inductive HostReply where
  | nothing
  | capacityExceeded
  | value (n : Nat)
  deriving DecidableEq, Repr

/-- One move of the host (R174): the state it leaves and what it gives back. -/
def hostMove (m : HostMove) (s : State) : Host.Outcome (State × HostReply) Fault Refusal :=
  match m with
  | .reset => .next (hostReset s, .nothing)
  | .load seq =>
    match load seq s with
    | .loaded t => .next (t, .nothing)
    | .capacityExceeded => .next (s, .capacityExceeded)
  | .step =>
    match step s with
    | .next t => .next (t, .nothing)
    | .fault r => .fault r
    | .refused r => .refused r
  | .run => .next (hostRun s, .nothing)
  | .stop => .next (s, .nothing)
  | .read item => .next (s, .value (readItem s item))

end Sys2Proof.Machine
end

