-- ==== Sys2Proof/Machine/Loader.lean ====
section
/-! DEFINITION. The Loader's checks before load() (50_host_interface.md R170) and the numeric program text
(30_encoding.md R82): one value per line, decimal 0 to 15 or hexadecimal 0x0 to 0xF (log entry 18). -/

namespace Sys2Proof.Machine

/-- The Loader's structured errors; the core never sees the program (R169, R170). -/
inductive LoaderError where
  /-- The line (counted from 0) is not one of the accepted literals (R82). -/
  | malformedLine (line : Nat)
  /-- The value at this index (counted from 0) is outside 0 to 15 (R170). -/
  | valueOutOfRange (index : Nat)
  /-- The program is longer than MEM_SIZE - 15 (R169). -/
  | capacityExceeded
  deriving DecidableEq, Repr

/-- The value of a decimal digit. -/
def decimalDigit (c : Char) : Option Nat :=
  if '0'.toNat ≤ c.toNat ∧ c.toNat ≤ '9'.toNat then some (c.toNat - '0'.toNat) else none

/-- The value of a hexadecimal digit, `0` to `9` or `A` to `F`. -/
def hexDigit (c : Char) : Option Nat :=
  if 'A'.toNat ≤ c.toNat ∧ c.toNat ≤ 'F'.toNat then some (c.toNat - 'A'.toNat + 10)
  else decimalDigit c

/-- A number as a nibble, if it is one (R170: no masking). -/
def nibbleOfNat (n : Nat) : Option Nibble := if n < 16 then some (BitVec.ofNat 4 n) else none

/-- One line of program text (R82): `0` to `15` or `0x0` to `0xF`. -/
def parseLine : List Char → Option Nibble
  | [d] => (decimalDigit d).bind nibbleOfNat
  | ['1', d] => (decimalDigit d).bind (fun n => nibbleOfNat (10 + n))
  | ['0', 'x', d] => (hexDigit d).bind nibbleOfNat
  | _ => none

/-- A program text, line by line from line number `k`: the sequence it denotes or the first bad line. -/
def parseLinesFrom : Nat → List (List Char) → Except LoaderError (List Nibble)
  | _, [] => .ok []
  | k, l :: ls =>
    match parseLine l, parseLinesFrom (k + 1) ls with
    | none, _ => .error (.malformedLine k)
    | some _, .error e => .error e
    | some v, .ok vs => .ok (v :: vs)

/-- A program text (R82). -/
def parseLines (ls : List (List Char)) : Except LoaderError (List Nibble) := parseLinesFrom 0 ls

/-- A sequence of numbers, from index `k`: the nibbles, or the first value outside 0 to 15 (R170). -/
def checkValuesFrom : Nat → List Nat → Except LoaderError (List Nibble)
  | _, [] => .ok []
  | k, n :: ns =>
    match nibbleOfNat n, checkValuesFrom (k + 1) ns with
    | none, _ => .error (.valueOutOfRange k)
    | some _, .error e => .error e
    | some v, .ok vs => .ok (v :: vs)

/-- The Loader's value check (R170). -/
def checkValues (ns : List Nat) : Except LoaderError (List Nibble) := checkValuesFrom 0 ns

/-- A checked sequence handed to load() (R168, R169). -/
def loadChecked (seq : Except LoaderError (List Nibble)) (s : State) : Except LoaderError State :=
  match seq with
  | .error e => .error e
  | .ok vs =>
    match load vs s with
    | .loaded t => .ok t
    | .capacityExceeded => .error .capacityExceeded

/-- The Loader on a sequence of numbers. -/
def loadValues (ns : List Nat) (s : State) : Except LoaderError State := loadChecked (checkValues ns) s

/-- The Loader on a program text. -/
def loadText (ls : List (List Char)) (s : State) : Except LoaderError State :=
  loadChecked (parseLines ls) s

end Sys2Proof.Machine
end

