-- ==== Sys2Proof/Machine/Ports.lean ====
section
/-! DEFINITION. The suggested synchronous port list of 50_host_interface.md R176 (informative, the spec's own;
log entry 15): reset, load, step and the reads mapped onto one clock edge per move. -/

namespace Sys2Proof.Machine

/-- The inputs sampled at a rising edge of `clk` (R176). -/
structure PortIn where
  rst : Bool
  stepEn : Bool
  ldWe : Bool
  ldAddr : Nat
  ldData : Nibble
  runAck : Bool
  dbgAddr : Nat
  deriving DecidableEq, Repr

/-- The outputs (R176). -/
structure PortOut where
  aQ : Nibble
  bQ : Nibble
  cQ : Nibble
  pcQ : Nat
  spQ : Nat
  fQ : Nibble
  haltreqQ : Bool
  dbgData : Nibble
  diagValid : Bool
  diagV : Nibble
  deriving DecidableEq, Repr

/-- `run_ack` clears HALTREQ (R173, R176). -/
def acknowledgeRun (p : PortIn) (s : State) : State := if p.runAck then hostRun s else s

/-- One clock edge (R176): `rst` over `ld_we` over `step_en`; otherwise the state holds. With `rst` the whole
state is the reset state, `run_ack` or not (log entry 15). -/
def clockEdge (p : PortIn) (s : State) : Host.Outcome State Fault Refusal :=
  if p.rst then .next (hostReset s)
  else if p.ldWe then .next (acknowledgeRun p (memWrite s p.ldAddr p.ldData))
  else if p.stepEn then
    match step s with
    | .next t => .next (acknowledgeRun p t)
    | .fault r => .fault r
    | .refused r => .refused r
  else .next (acknowledgeRun p s)

/-- The events emitted between two states of one machine: `diags` only ever grows at its end. -/
def newDiagnostics (s t : State) : List Diagnostic := t.diags.drop s.diags.length

/-- The operand carried by an event. -/
def diagnosticOperand : Diagnostic → Nibble
  | .invalidSecondaryOperand v => v

/-- The outputs in clock number `clock`, after the edge that took `s` to `t`: `diag_valid` pulses, and `diag_v` carries
the operand, in the clock of the step that raised the diagnostic (R176). What `diag_v` carries in any other clock the
spec leaves open: a free value (DESIGN CHOICE, log entry 15). -/
def portOut (clock : Nat) (p : PortIn) (s t : State) : PortOut where
  aQ := t.a
  bQ := t.b
  cQ := t.c
  pcQ := t.pc
  spQ := t.sp
  fQ := flagNibble t
  haltreqQ := t.haltReq
  dbgData := memRead t p.dbgAddr
  diagValid := !(newDiagnostics s t).isEmpty
  diagV := ((newDiagnostics s t).head?.map diagnosticOperand).getD (Config.undrivenDiagV clock)

/-- An edge with nothing requested. -/
def PortIn.idle : PortIn :=
  { rst := false, stepEn := false, ldWe := false, ldAddr := 0, ldData := 0, runAck := false, dbgAddr := 0 }

/-- Successive clock edges. -/
def clockEdges : List PortIn → State → Host.Outcome State Fault Refusal
  | [], s => .next s
  | p :: ps, s =>
    match clockEdge p s with
    | .next t => clockEdges ps t
    | .fault r => .fault r
    | .refused r => .refused r

/-- How the Loader drives the load port: one cell a clock, addresses from `x` upward (R176). -/
def loadPulses : List Nibble → Nat → List PortIn
  | [], _ => []
  | v :: vs, x => { PortIn.idle with ldWe := true, ldAddr := x, ldData := v } :: loadPulses vs (x + 1)

end Sys2Proof.Machine
end

