-- ==== Sys2Proof/Safety.lean ====
section
/-! DEFINITION. The invariant of every state (10_state.md R33) and the words the claims are stated in. -/

namespace Sys2Proof.Machine

/-- The invariants of 10_state.md R33, under the parameters' constraints (00_scope.md R7, R8). Registers, cells and
flags are in range by type. The two clauses on the memory list are the model's own (log entry 3, DESIGN CHOICE). -/
structure State.Inv (s : State) : Prop where
  /-- MEM_SIZE is at least 32 and 1 <= STACK_BOUNDARY <= MEM_SIZE - 1. -/
  cfg_valid : s.cfg.Valid
  /-- 0 <= PC < MEM_SIZE. -/
  pc_lt : s.pc < s.cfg.memSize
  /-- SP <= max(15, STACK_BOUNDARY), which is below MEM_SIZE. -/
  sp_le : s.sp ≤ max 15 s.cfg.stackBoundary
  /-- The memory list is in canonical form. -/
  mem_wf : Memory.wf s.mem
  /-- Every listed cell exists: addresses are 0 to MEM_SIZE - 1. -/
  mem_lt : ∀ e ∈ s.mem, e.1 < s.cfg.memSize

/-- The instruction the next step executes: the pair at the normalised PC (40_step_cycle.md R91, R92). -/
def nextInstr (s : State) : Instr := fetchedInstr (fetch (normalisePc s))

/-- Whether an instruction leaves PC at another address than the next pair's (10_state.md R24): JMP, a taken
skip, a POPPC that pops. -/
def transfers (i : Instr) (s : State) : Bool :=
  match i with
  | .jmp _ => true
  | .skc => s.carry
  | .skn => s.negative
  | .ske => s.equal
  | .poppc => !stackEmpty s
  | .lda _ => false
  | .sta _ => false
  | .cmp _ => false
  | .add _ => false
  | .sub _ => false
  | .and _ => false
  | .xor _ => false
  | .or _ => false
  | .not => false
  | .ldi _ => false
  | .ssp _ => false
  | .adi _ => false
  | .sbi _ => false
  | .cmpf _ => false
  | .nop => false
  | .push => false
  | .pop => false
  | .pushpc => false
  | .swab => false
  | .swbc => false
  | .invsec _ => false

/-- The address an instruction stores to, if it stores: the direct address of STA, the old SP of a push
that is not refused (20_memory.md R51). -/
def storeTarget (i : Instr) (s : State) : Option Nat :=
  match i with
  | .sta v => some (directAddr v)
  | .push => if stackFull s then none else some s.sp
  | .pushpc => if stackFull s then none else some s.sp
  | .lda _ => none
  | .cmp _ => none
  | .add _ => none
  | .sub _ => none
  | .and _ => none
  | .xor _ => none
  | .or _ => none
  | .not => none
  | .ldi _ => none
  | .jmp _ => none
  | .ssp _ => none
  | .adi _ => none
  | .sbi _ => none
  | .cmpf _ => none
  | .nop => none
  | .pop => none
  | .poppc => none
  | .swab => none
  | .swbc => none
  | .skc => none
  | .skn => none
  | .ske => none
  | .invsec _ => none

/-- The registers and flags an instruction may write (10_state.md R22, R27, R29). -/
inductive Written where
  | regA
  | regB
  | regC
  | sp
  | carry
  | negative
  | equal
  | error
  deriving DecidableEq, Repr

/-- What each instruction may write besides PC and memory: the tables of 10_state.md R22 and R29, and R27's
list for SP. -/
def writes : Instr → List Written
  | .lda _ => [.regA]
  | .sta _ => []
  | .cmp _ => [.equal]
  | .add _ => [.regA, .carry]
  | .sub _ => [.regA, .carry, .negative]
  | .and _ => [.regA]
  | .xor _ => [.regA]
  | .or _ => [.regA]
  | .not => [.regA]
  | .ldi _ => [.regA]
  | .jmp _ => []
  | .ssp _ => [.sp]
  | .adi _ => [.regA, .carry]
  | .sbi _ => [.regA, .carry, .negative]
  | .cmpf _ => [.equal]
  | .nop => []
  | .push => [.sp, .error]
  | .pop => [.regA, .sp, .error]
  | .pushpc => [.sp, .error]
  | .poppc => [.sp, .error]
  | .swab => [.regA, .regB]
  | .swbc => [.regB, .regC]
  | .skc => []
  | .skn => []
  | .ske => []
  | .invsec _ => []

/-- Every cell reads as it did. -/
def SameMemory (s t : State) : Prop := ∀ x, memRead t x = memRead s x

/-- Every cell but the one at address `y` reads as it did (addresses `mod MEM_SIZE`, 20_memory.md R53). -/
def SameMemoryBut (y : Nat) (s t : State) : Prop :=
  ∀ x, x % s.cfg.memSize ≠ y % s.cfg.memSize → memRead t x = memRead s x

/-- `k` steps from `s`: what the host's `Sys2Proof.core.run` gives (50_host_interface.md R171). -/
def runSteps : Nat → State → Host.Outcome State Fault Refusal
  | 0, s => .next s
  | k + 1, s =>
    match step s with
    | .next t => runSteps k t
    | .fault r => .fault r
    | .refused r => .refused r

end Sys2Proof.Machine
end

