-- ==== Sys2Proof/Certificates/Slice0/Obligations.lean ====
section
/-! DEFINITION. The statements for the provers. Where a statement rests on a decision the spec marks as its
own (92_eei_decisions.md D<n>), its docstring names the decision and the model's log entry. -/

open Sys2Proof Sys2Proof.Machine

/-! ## Encoding -/

/-- Words written out from the tables of 30_encoding.md R74 and R75 decode to the instructions they stand
for, also as the words of spec/opcode_table.json. -/
def Obligations.WrittenWordsDecode : Prop :=
  decode [0x1, 0x3] = .ok (.lda 3, []) ∧ decode [0x0, 0x5] = .ok (.swab, []) ∧
  decode [0xF, 0x5] = .ok (.cmpf 5, []) ∧ decode [0xD, 0xF] = .ok (.adi 15, []) ∧
  decode [0x9, 0x7] = .ok (.not, []) ∧ decode [0xB, 0x4, 0xA] = .ok (.jmp 4, [0xA]) ∧
  decode [0x0, 0xC] = .ok (.invsec 12, []) ∧ decode [0xC, 0xE] = .ok (.ssp 14, []) ∧
  decodeTableWord 8 0x4A = some (.add 10) ∧ decodeTableWord 8 0x03 = some .pushpc

/-- Decode and encode agree: the cells of every well-formed instruction decode to it, whatever cells follow
(30_encoding.md section 5, "Assembling"). -/
def Obligations.DecodeOfEncode : Prop :=
  ∀ (i : Instr) (rest : List Nibble), i.wellFormed = true → decode (encode i ++ rest) = .ok (i, rest)

/-- No bit of a word is dropped but NOT's operand: what decodes is well formed, and encodes to the cells it was
decoded from, unless it is NOT, whose operand cell is ignored (30_encoding.md section 4; the spec's decision
D9, log entry 17). -/
def Obligations.DecodedCellsReencode : Prop :=
  ∀ (cells rest : List Nibble) (i : Instr), decode cells = .ok (i, rest) →
    i.wellFormed = true ∧
      ((i ≠ .not ∧ cells = encode i ++ rest) ∨ (i = .not ∧ ∃ v, cells = 0x9 :: v :: rest))

/-- The invalid secondary encodings are exactly the six words 0x0A to 0x0F (30_encoding.md section 4; the
spec's decision D11, log entry 11). -/
def Obligations.OnlySixInvalidWords : Prop :=
  ∀ (cells rest : List Nibble) (w : Nibble),
    decode cells = .ok (.invsec w, rest) ↔ (cells = 0x0 :: w :: rest ∧ 10 ≤ w.toNat)

/-- Every list of two cells or more begins with an instruction of exactly two cells; a shorter one is
rejected by name (30_encoding.md sections 1 and 4). -/
def Obligations.TwoCellsAlwaysDecode : Prop :=
  (∀ i : Instr, (encode i).length = 2) ∧
  ∀ cells : List Nibble,
    (2 ≤ cells.length → ∃ i, decode cells = .ok (i, cells.drop 2)) ∧
    (cells.length < 2 → decode cells = .error .tooFewCells)

/-! ## The step -/

/-- A step runs the decoded instruction: it is exec of the instruction the two cells at PC decode to, with PC
moved past them (40_step_cycle.md sections on step, fetch and dispatch). That the second cell is the one at
`(P + 1) mod MEM_SIZE` and PC is reduced is the spec's decision D2, D3 (log entry 5). -/
def Obligations.StepRunsDecoded : Prop :=
  ∀ (s : State) (i : Instr),
    decode [memRead s s.pc, memRead s (s.pc + 1)] = .ok (i, []) →
      step s = exec i { s with pc := (s.pc + 2) % s.cfg.memSize }

/-- The pair at the last cell takes M[0] as its operand, and the next pair stands at 1 (20_memory.md section
1; the spec's decision D3, log entry 5). -/
def Obligations.LastCellOperandWraps : Prop :=
  ∀ s : State, s.cfg.Valid → s.pc = s.cfg.memSize - 1 →
    (fetch s).op = memRead s (s.cfg.memSize - 1) ∧ (fetch s).v = memRead s 0 ∧
      (fetch s).after = { s with pc := 1 }

/-- A store is seen by the very next fetch, in either cell of the pair (20_memory.md section 4; the spec's
decision D20). -/
def Obligations.StoreSeenByNextFetch : Prop :=
  ∀ (s : State) (x : Nat) (v : Nibble),
    (fetch (memWrite s x v)).op =
        (if s.pc % s.cfg.memSize = x % s.cfg.memSize then v else memRead s s.pc) ∧
      (fetch (memWrite s x v)).v =
        (if (s.pc + 1) % s.cfg.memSize = x % s.cfg.memSize then v else memRead s (s.pc + 1))

/-! ## What each instruction does (PC is the next-pair address when exec runs) -/

/-- R100: `A <- MemRead(V, 1)`, no flag, words 0x10 to 0x1F. -/
def Obligations.LdaLoadsCell : Prop :=
  ∀ (v : Nibble) (s : State),
    decodePair 0x1 v = .lda v ∧ exec (.lda v) s = .next { s with a := memRead s v.toNat }

/-- R101: `MemWrite(V, 1, A)`: the cell at V holds A, every other cell and everything else is unchanged, words
0x20 to 0x2F. -/
def Obligations.StaStoresA : Prop :=
  ∀ (v : Nibble) (s : State),
    decodePair 0x2 v = .sta v ∧
    ∃ t, exec (.sta v) s = .next t ∧ t = { s with mem := t.mem } ∧ memRead t v.toNat = s.a ∧
      ∀ x, x % s.cfg.memSize ≠ v.toNat % s.cfg.memSize → memRead t x = memRead s x

/-- R102: `A <- V`, no flag, no truncation, words 0xA0 to 0xAF. -/
def Obligations.LdiLoadsImmediate : Prop :=
  ∀ (v : Nibble) (s : State), decodePair 0xA v = .ldi v ∧ exec (.ldi v) s = .next { s with a := v }

/-- R103 and R104: SWAB exchanges A and B, SWBC exchanges B and C, words 0x05 and 0x06; two in a row restore
both registers. -/
def Obligations.SwapsExchange : Prop :=
  decodePair 0x0 0x5 = .swab ∧ decodePair 0x0 0x6 = .swbc ∧
  ∀ s : State,
    exec .swab s = .next { s with a := s.b, b := s.a } ∧
    exec .swbc s = .next { s with b := s.c, c := s.b } ∧
    (∀ t, exec .swab s = .next t → exec .swab t = .next s) ∧
    (∀ t, exec .swbc s = .next t → exec .swbc t = .next s)

/-- R110: CMP assigns F.Equal, to 1 or to 0, and nothing else, words 0x30 to 0x3F. -/
def Obligations.CmpAssignsEqual : Prop :=
  ∀ (v : Nibble) (s : State),
    decodePair 0x3 v = .cmp v ∧
    (s.a = v → exec (.cmp v) s = .next { s with equal := true }) ∧
    (s.a ≠ v → exec (.cmp v) s = .next { s with equal := false })

/-- CMPF has exactly the effect of CMP in every case, and emits no diagnostic (42_compare.md; the spec's
decision D10, log entry 10). -/
def Obligations.CmpfAsCmp : Prop :=
  ∀ (v : Nibble) (s : State),
    decodePair 0xF v = .cmpf v ∧ exec (.cmpf v) s = exec (.cmp v) s ∧
    exec (.cmpf v) s = .next { s with equal := decide (s.a.toNat = v.toNat) }

/-- R116 and R118: the untruncated sum decides F.Carry (`> 15`), A is the sum `mod 15`; ADD adds the cell
M[V], ADI the immediate V; nothing else changes; words 0x40 to 0x4F and 0xD0 to 0xDF. -/
def Obligations.AddAndAdiResult : Prop :=
  ∀ (v : Nibble) (s : State),
    decodePair 0x4 v = .add v ∧ decodePair 0xD v = .adi v ∧
    exec (.add v) s = .next { s with
      a := BitVec.ofNat 4 ((s.a.toNat + (memRead s v.toNat).toNat) % 15)
      carry := decide (15 < s.a.toNat + (memRead s v.toNat).toNat) } ∧
    exec (.adi v) s = .next { s with
      a := BitVec.ofNat 4 ((s.a.toNat + v.toNat) % 15)
      carry := decide (15 < s.a.toNat + v.toNat) }

/-- SUB and SBI: A minus the immediate V, F.Carry and F.Negative both the borrow, A the floored remainder by 15,
here written `(A + 15 - V) mod 15` (43_arithmetic.md; that the remainder of a negative difference is the floored
one is the spec's decision D7, log entry 8). -/
def Obligations.SubAndSbiResult : Prop :=
  ∀ (v : Nibble) (s : State),
    decodePair 0x5 v = .sub v ∧ decodePair 0xE v = .sbi v ∧ exec (.sbi v) s = exec (.sub v) s ∧
    exec (.sub v) s = .next { s with
      a := BitVec.ofNat 4 ((s.a.toNat + 15 - v.toNat) % 15)
      carry := decide (s.a.toNat < v.toNat)
      negative := decide (s.a.toNat < v.toNat) }

/-- R125, R126 and R127, bit by bit: AND, XOR and OR of A with the immediate; no flag; words 0x60 to 0x8F. -/
def Obligations.LogicBitByBit : Prop :=
  ∀ (v : Nibble) (s : State),
    decodePair 0x6 v = .and v ∧ decodePair 0x7 v = .xor v ∧ decodePair 0x8 v = .or v ∧
    (∃ t, exec (.and v) s = .next t ∧ t = { s with a := t.a } ∧
      ∀ k < 4, t.a.getLsbD k = (s.a.getLsbD k && v.getLsbD k)) ∧
    (∃ t, exec (.xor v) s = .next t ∧ t = { s with a := t.a } ∧
      ∀ k < 4, t.a.getLsbD k = (s.a.getLsbD k != v.getLsbD k)) ∧
    (∃ t, exec (.or v) s = .next t ∧ t = { s with a := t.a } ∧
      ∀ k < 4, t.a.getLsbD k = (s.a.getLsbD k || v.getLsbD k))

/-- NOT, with any operand cell, is the complement of the four bits: 15 - A; no flag; two restore A
(44_logic.md; that the operand is ignored is the spec's decision D9, log entry 17). -/
def Obligations.NotComplements : Prop :=
  (∀ v : Nibble, decodePair 0x9 v = .not) ∧
  ∀ s : State,
    exec .not s = .next { s with a := BitVec.ofNat 4 (15 - s.a.toNat) } ∧
    ∀ t, exec .not s = .next t → exec .not t = .next s

/-- JMP: PC <- (15 + V) mod MEM_SIZE, which is 15 + V where the parameters are legal; nothing else changes
(45_control.md; that opcode 0xB is the jump is the spec's decision D28, log entry 20). -/
def Obligations.JmpResult : Prop :=
  ∀ (v : Nibble) (s : State),
    decodePair 0xB v = .jmp v ∧
    exec (.jmp v) s = .next { s with pc := (15 + v.toNat) % s.cfg.memSize } ∧
    (s.cfg.Valid → exec (.jmp v) s = .next { s with pc := 15 + v.toNat })

/-- R136: NOP does nothing; the only effect of its step is the fetch's PC advance; word 0x00. -/
def Obligations.NopOnlyAdvances : Prop :=
  decodePair 0x0 0x0 = .nop ∧
  ∀ s : State,
    exec .nop s = .next s ∧
    (memRead s s.pc = 0x0 → memRead s (s.pc + 1) = 0x0 →
      step s = .next { s with pc := (s.pc + 2) % s.cfg.memSize })

/-- R137 to R140: each skip tests its one flag; 1 moves PC two cells further, 0 does nothing; after the step
PC is `(P + 4)` or `(P + 2) mod MEM_SIZE`, and nothing else has changed; words 0x07, 0x08, 0x09. -/
def Obligations.SkipsTestOneFlag : Prop :=
  decodePair 0x0 0x7 = .skc ∧ decodePair 0x0 0x8 = .skn ∧ decodePair 0x0 0x9 = .ske ∧
  ∀ s : State,
    exec .skc s = .next { s with pc := if s.carry then (s.pc + 2) % s.cfg.memSize else s.pc } ∧
    exec .skn s = .next { s with pc := if s.negative then (s.pc + 2) % s.cfg.memSize else s.pc } ∧
    exec .ske s = .next { s with pc := if s.equal then (s.pc + 2) % s.cfg.memSize else s.pc } ∧
    (memRead s s.pc = 0x0 →
      (memRead s (s.pc + 1) = 0x7 →
        step s = .next { s with pc := (s.pc + (if s.carry then 4 else 2)) % s.cfg.memSize }) ∧
      (memRead s (s.pc + 1) = 0x8 →
        step s = .next { s with pc := (s.pc + (if s.negative then 4 else 2)) % s.cfg.memSize }) ∧
      (memRead s (s.pc + 1) = 0x9 →
        step s = .next { s with pc := (s.pc + (if s.equal then 4 else 2)) % s.cfg.memSize }))

/-- INVSEC changes no register, flag or cell, F.Error not set, and emits one diagnostic with its operand
(45_control.md; the spec's decision D11, log entries 4 and 11). -/
def Obligations.InvsecOnlyDiagnoses : Prop :=
  ∀ (v : Nibble) (s : State),
    (10 ≤ v.toNat → decodePair 0x0 v = .invsec v) ∧
    exec (.invsec v) s = .next { s with diags := s.diags ++ [.invalidSecondaryOperand v] }

/-- SSP sets SP to V with no check against the boundary, F.Error neither set nor cleared (46_stack.md; the spec's
decision D26). -/
def Obligations.SspSetsSp : Prop :=
  ∀ (v : Nibble) (s : State), decodePair 0xC v = .ssp v ∧ exec (.ssp v) s = .next { s with sp := v.toNat }

/-- PUSH: at or above the boundary only F.Error changes; below it the cell at the old SP holds A, SP is one more,
and every other cell and everything else is unchanged (46_stack.md; refusing above the boundary as at it is
the spec's decision D6, log entry 7). -/
def Obligations.PushResult : Prop :=
  decodePair 0x0 0x1 = .push ∧
  ∀ s : State,
    (s.cfg.stackBoundary ≤ s.sp → exec .push s = .next { s with error := true }) ∧
    (s.sp < s.cfg.stackBoundary →
      ∃ t, exec .push s = .next t ∧ t = { s with sp := s.sp + 1, mem := t.mem } ∧ memRead t s.sp = s.a ∧
        ∀ x, x % s.cfg.memSize ≠ s.sp % s.cfg.memSize → memRead t x = memRead s x)

/-- R153: POP at SP = 0 only sets F.Error; otherwise SP is one less and A is the cell read at the new SP; memory
is unchanged; word 0x02. -/
def Obligations.PopResult : Prop :=
  decodePair 0x0 0x2 = .pop ∧
  ∀ s : State,
    (s.sp = 0 → exec .pop s = .next { s with error := true }) ∧
    (0 < s.sp → exec .pop s = .next { s with sp := s.sp - 1, a := memRead s (s.sp - 1) })

/-- PUSHPC: the boundary check of PUSH; below the boundary the cell at the old SP holds `PC mod 16`, PC being
the next-pair address, and PC and A are unchanged (46_stack.md; the four bits are the spec's decision D8, log
entry 9, the refusal above the boundary D6, log entry 7). -/
def Obligations.PushpcResult : Prop :=
  decodePair 0x0 0x3 = .pushpc ∧
  ∀ s : State,
    (s.cfg.stackBoundary ≤ s.sp → exec .pushpc s = .next { s with error := true }) ∧
    (s.sp < s.cfg.stackBoundary →
      ∃ t, exec .pushpc s = .next t ∧ t = { s with sp := s.sp + 1, mem := t.mem } ∧
        (memRead t s.sp).toNat = s.pc % 16 ∧
        ∀ x, x % s.cfg.memSize ≠ s.sp % s.cfg.memSize → memRead t x = memRead s x)

/-- POPPC: the check of POP; otherwise SP is one less and PC is the cell's value, 0 to 15, no origin added;
A and memory are unchanged (46_stack.md; the spec's decision D8, log entry 9). -/
def Obligations.PoppcResult : Prop :=
  decodePair 0x0 0x4 = .poppc ∧
  ∀ s : State,
    (s.sp = 0 → exec .poppc s = .next { s with error := true }) ∧
    (0 < s.sp → exec .poppc s = .next { s with sp := s.sp - 1, pc := (memRead s (s.sp - 1)).toNat })

/-- The result tables of add and subtract (43_arithmetic.md section 3), with x the immediate V or, for ADD, the cell
M[V]: a sum of 15 or 30 gives 0, a carry is out of 16 and not of 15; a difference of 15, 0 or -15 gives 0, any other
negative difference d gives d + 15. The rows of negative differences rest on the spec's decision D7 (log entry 8). -/
def Obligations.ArithmeticTables : Prop :=
  ∀ (i : Instr) (x : Nibble) (s : State),
    ((i = .adi x ∨ ∃ v, i = .add v ∧ memRead s v.toNat = x) →
      ∃ t, exec i s = .next t ∧
        (s.a.toNat + x.toNat ≤ 14 → t.a.toNat = s.a.toNat + x.toNat ∧ t.carry = false) ∧
        (s.a.toNat + x.toNat = 15 → t.a.toNat = 0 ∧ t.carry = false) ∧
        (16 ≤ s.a.toNat + x.toNat → s.a.toNat + x.toNat ≤ 29 →
          t.a.toNat = s.a.toNat + x.toNat - 15 ∧ t.carry = true) ∧
        (s.a.toNat + x.toNat = 30 → t.a.toNat = 0 ∧ t.carry = true)) ∧
    ((i = .sbi x ∨ i = .sub x) →
      ∃ t, exec i s = .next t ∧
        (s.a.toNat = x.toNat + 15 → t.a.toNat = 0 ∧ t.carry = false ∧ t.negative = false) ∧
        (x.toNat ≤ s.a.toNat → s.a.toNat ≤ x.toNat + 14 →
          t.a.toNat = s.a.toNat - x.toNat ∧ t.carry = false ∧ t.negative = false) ∧
        (s.a.toNat < x.toNat → x.toNat ≤ s.a.toNat + 14 →
          t.a.toNat = s.a.toNat + 15 - x.toNat ∧ t.carry = true ∧ t.negative = true) ∧
        (x.toNat = s.a.toNat + 15 → t.a.toNat = 0 ∧ t.carry = true ∧ t.negative = true))

/-- The truncation law (43_arithmetic.md section 1): after every add and every subtract A is the untruncated
result `mod 15` and so in 0 to 14, the flags being computed from the untruncated result; truncating twice is
truncating once; LDI, OR and POP can leave 15 in A. That the remainder of a negative difference is the floored one
is the spec's decision D7 (log entry 8). -/
def Obligations.TruncationLaw : Prop :=
  (∀ (v : Nibble) (s t : State),
    (exec (.add v) s = .next t →
      (t.a.toNat : Int) = ((s.a.toNat : Int) + (memRead s v.toNat).toNat) % 15 ∧
      t.carry = decide ((s.a.toNat : Int) + (memRead s v.toNat).toNat > 15)) ∧
    (exec (.adi v) s = .next t →
      (t.a.toNat : Int) = ((s.a.toNat : Int) + v.toNat) % 15 ∧
      t.carry = decide ((s.a.toNat : Int) + v.toNat > 15)) ∧
    (exec (.sub v) s = .next t ∨ exec (.sbi v) s = .next t →
      (t.a.toNat : Int) = ((s.a.toNat : Int) - v.toNat) % 15 ∧
      t.carry = decide ((s.a.toNat : Int) - v.toNat < 0) ∧
      t.negative = decide ((s.a.toNat : Int) - v.toNat < 0)) ∧
    (exec (.add v) s = .next t ∨ exec (.adi v) s = .next t ∨ exec (.sub v) s = .next t ∨
      exec (.sbi v) s = .next t → t.a.toNat ≤ 14)) ∧
  (∀ x : Int, trunc15 (trunc15 x).toNat = trunc15 x) ∧
  (∀ s : State, (∃ t, exec (.ldi 15) s = .next t ∧ t.a = 15) ∧ (∃ t, exec (.or 15) s = .next t ∧ t.a = 15) ∧
    (0 < s.sp → memRead s (s.sp - 1) = 15 → ∃ t, exec .pop s = .next t ∧ t.a = 15))

/-- With A at most 14, adding a value and then subtracting it restores A, carry or not (43_arithmetic.md
section 3, "exact arithmetic modulo 15"; rests on the spec's decision D7, log entry 8). -/
def Obligations.AddThenSubtractRestores : Prop :=
  ∀ (v : Nibble) (s : State), s.a.toNat ≤ 14 →
    ∃ t u, exec (.adi v) s = .next t ∧ exec (.sbi v) t = .next u ∧ u.a = s.a

/-- A push below the boundary and a pop at once after it leave A, SP, the flags and everything else as they were but
the cell at SP, which holds A (46_stack.md section 1, the push-pop law). -/
def Obligations.PushThenPopRestores : Prop :=
  ∀ s : State, s.sp < s.cfg.stackBoundary →
    ∃ t, exec .push s = .next t ∧ exec .pop t = .next { s with mem := t.mem } ∧ memRead t s.sp = s.a ∧
      SameMemoryBut s.sp s t

/-! ## Frames -/

/-- The registers: A, B, C and SP change only by the instructions 10_state.md's tables list (sections 2 and 4). -/
def Obligations.RegisterFrame : Prop :=
  ∀ (i : Instr) (s t : State), exec i s = .next t →
    (Written.regA ∉ writes i → t.a = s.a) ∧ (Written.regB ∉ writes i → t.b = s.b) ∧
    (Written.regC ∉ writes i → t.c = s.c) ∧ (Written.sp ∉ writes i → t.sp = s.sp)

/-- The flags: each changes only by the instructions 10_state.md's table lists (section 5); no instruction writes 0
to F.Error, and a push or pop that is not refused leaves it (the boundary test is the spec's decision D6,
log entry 7). -/
def Obligations.FlagFrame : Prop :=
  ∀ (i : Instr) (s t : State), exec i s = .next t →
    (Written.carry ∉ writes i → t.carry = s.carry) ∧
    (Written.negative ∉ writes i → t.negative = s.negative) ∧
    (Written.equal ∉ writes i → t.equal = s.equal) ∧
    (Written.error ∉ writes i → t.error = s.error) ∧
    ((i = .push ∨ i = .pushpc) → s.sp < s.cfg.stackBoundary → t.error = s.error) ∧
    ((i = .pop ∨ i = .poppc) → 0 < s.sp → t.error = s.error) ∧
    (s.error = true → t.error = true)

/-- PC is left at the next-pair address by every instruction but JMP, a taken skip and a POPPC that pops
(10_state.md section 3). -/
def Obligations.PcFrame : Prop :=
  ∀ (i : Instr) (s t : State), exec i s = .next t → transfers i s = false → t.pc = s.pc

/-- No instruction changes the parameters or HALTREQ, and none but INVSEC emits a diagnostic (10_state.md section
6; the spec's decisions D11 and D14, log entries 1, 4, 12). -/
def Obligations.OutsideFrame : Prop :=
  ∀ (i : Instr) (s t : State), exec i s = .next t →
    t.cfg = s.cfg ∧ t.haltReq = s.haltReq ∧ ((∀ v, i ≠ .invsec v) → t.diags = s.diags)

/-- Memory: an instruction that stores nothing leaves every cell as it was; one that stores, at the direct
address of STA or the old SP of a push not refused, leaves every cell but that one (20_memory.md section 1). -/
def Obligations.MemoryFrame : Prop :=
  ∀ (i : Instr) (s t : State), exec i s = .next t →
    (storeTarget i s = none → SameMemory s t) ∧
    (∀ y, storeTarget i s = some y → SameMemoryBut y s t)

/-- B and C reach nothing but through the swaps: every other instruction does the same whatever they hold
(10_state.md section 2). -/
def Obligations.BAndCOnlyThroughSwaps : Prop :=
  ∀ (i : Instr) (s : State) (x y : Nibble), i ≠ .swab → i ≠ .swbc →
    ∃ t, exec i s = .next t ∧ exec i { s with b := x, c := y } = .next { t with b := x, c := y }

/-! ## The whole machine -/

/-- R180: the machine never traps; every step completes and leaves PC at a defined address. -/
def Obligations.EveryStepCompletes : Prop :=
  ∀ s : State, s.cfg.Valid → ∃ t, step s = .next t ∧ t.pc < s.cfg.memSize

/-- The state after reset meets the invariant, for every legal choice of the parameters (10_state.md sections
8 and 10; the reset value of PC and the cleared memory are the spec's decisions D4 and D13, log entry 6). The model's
own, not the spec's: the invariant's clauses on the memory list, canonical form and addresses in range (log entry 3,
DESIGN CHOICE), and the parameters held in the state and their values in State.reset (log entry 1, DESIGN CHOICE). -/
def Obligations.ResetMeetsInv : Prop :=
  (∀ cfg : Config, cfg.Valid → (State.resetWith cfg).Inv) ∧ State.reset.Inv ∧
    State.reset = State.resetWith Config.reference

/-- Every step keeps the invariant. Of 10_state.md section 8: PC below MEM_SIZE, SP at most max(15, STACK_BOUNDARY),
under legal parameters (00_scope.md section 3). The model's own, not the spec's: that the memory list is canonical with
addresses below MEM_SIZE (log entry 3, DESIGN CHOICE), and that the state holds the parameters (log entry 1, DESIGN
CHOICE). -/
def Obligations.StepKeepsInv : Prop :=
  ∀ s t : State, s.Inv → step s = .next t → t.Inv

/-- Every move of the host keeps the invariant, reset() from any state with legal parameters (50_host_interface.md
sections 1 to 3, 10_state.md section 8). The invariant's clauses on the memory list, canonical form and addresses in
range, are the model's own, not the spec's (log entry 3, DESIGN CHOICE), and so is that the state holds the parameters
(log entry 1, DESIGN CHOICE). -/
def Obligations.HostMovesKeepInv : Prop :=
  (∀ (m : HostMove) (s t : State) (r : HostReply), s.Inv → hostMove m s = .next (t, r) → t.Inv) ∧
  ∀ s : State, s.cfg.Valid → (hostReset s).Inv

/-- A step emits at most one diagnostic, and only for an invalid secondary encoding, with its operand
(50_host_interface.md section 4; the spec's decision D11, log entries 4 and 11). -/
def Obligations.AtMostOneDiagnostic : Prop :=
  ∀ s t : State, step s = .next t →
    t.diags = s.diags ∨
      ∃ v : Nibble, 10 ≤ v.toNat ∧ memRead s s.pc = 0 ∧ memRead s (s.pc + 1) = v ∧
        t.diags = s.diags ++ [.invalidSecondaryOperand v]

/-- R158: once 1, F.Error stays 1 through every later instruction; it stops nothing, and no instruction tests it:
the run is the one with F.Error 0 but for that flag. -/
def Obligations.StackErrorStaysAndStopsNothing : Prop :=
  ∀ (k : Nat) (s : State), s.error = true →
    ∃ t u, runSteps k s = .next t ∧ t.error = true ∧
      runSteps k { s with error := false } = .next u ∧ t = { u with error := true }

/-- reset() is the only move of the host that clears F.Error (50_host_interface.md section 1). -/
def Obligations.OnlyResetClearsError : Prop :=
  ∀ (m : HostMove) (s t : State) (r : HostReply), s.error = true → hostMove m s = .next (t, r) →
    (t.error = false ↔ m = .reset)

/-- Steps neither look at HALTREQ nor change it (10_state.md section 6; the spec's decision D14, log entry 12). -/
def Obligations.StepsIgnoreHaltReq : Prop :=
  ∀ (k : Nat) (s : State) (h : Bool),
    ∃ t, runSteps k s = .next t ∧ t.haltReq = s.haltReq ∧
      runSteps k { s with haltReq := h } = .next { t with haltReq := h }

/-- No step reads the diagnostics emitted before it (50_host_interface.md section 4; log entry 4): from any
other log, the same run adds the same events. -/
def Obligations.DiagnosticsNeverRead : Prop :=
  ∀ (k : Nat) (s : State) (ds : List Diagnostic),
    ∃ t new, runSteps k s = .next t ∧ t.diags = s.diags ++ new ∧
      runSteps k { s with diags := ds } = .next { t with diags := ds ++ new }

/-- Sequential execution: if none of k steps executes a JMP, a taken skip or a POPPC that pops, PC after them is
`(PC0 + 2k) mod MEM_SIZE` (40_step_cycle.md, from DOC's property; rests on the spec's decisions D2, D3, log
entry 5). -/
def Obligations.SequentialRun : Prop :=
  ∀ (k : Nat) (s : State), s.pc < s.cfg.memSize →
    (∀ j < k, ∀ u, runSteps j s = .next u → transfers (nextInstr u) u = false) →
      ∃ t, runSteps k s = .next t ∧ t.pc = (s.pc + 2 * k) % s.cfg.memSize

/-- The parity of PC is kept by every step but a JMP or a POPPC, wrap-around and skips included
(70_reset_and_hazards.md section 3, "Parity"). -/
def Obligations.ParityKept : Prop :=
  ∀ s t : State, s.cfg.Valid → step s = .next t → (∀ v, nextInstr s ≠ .jmp v) → nextInstr s ≠ .poppc →
    t.pc % 2 = s.pc % 2

/-- JMP reaches only addresses 15 to 30, POPPC that pops only 0 to 15 (70_reset_and_hazards.md section 3, "Reach
of jumps"; the spec's decisions D8 and D28, log entries 9 and 20). -/
def Obligations.ReachOfJumps : Prop :=
  ∀ s t : State, s.cfg.Valid → step s = .next t →
    ((∃ v, nextInstr s = .jmp v) → 15 ≤ t.pc ∧ t.pc ≤ 30) ∧
    (nextInstr s = .poppc → 0 < s.sp → t.pc ≤ 15)

/-- A resting jump, `JMP k` standing at address 15 + k, leaves the whole state unchanged for ever
(30_encoding.md section 5, 70_reset_and_hazards.md section 3; the end of a run is the spec's decision D21). -/
def Obligations.RestingJumpRests : Prop :=
  ∀ (n : Nat) (k : Nibble) (s : State), s.cfg.Valid → s.pc = 15 + k.toNat →
    memRead s (15 + k.toNat) = 0xB → memRead s (16 + k.toNat) = k → runSteps n s = .next s

/-- Equal memories are equal data: canonical lists that read the same are the same list; so repeating a write
changes nothing more and writing back what a cell holds changes nothing (20_memory.md section 1; log entry 3). -/
def Obligations.CanonicalMemoryIsItsContents : Prop :=
  (∀ m n : Memory, Memory.wf m → Memory.wf n → (∀ x, cellAt m x = cellAt n x) → m = n) ∧
  (∀ (s : State) (x : Nat) (v : Nibble), Memory.wf s.mem →
    memWrite (memWrite s x v) x v = memWrite s x v ∧ memWrite s x (memRead s x) = s)

/-! ## Reset, load, run and the ports -/

/-- reset(), from any state: A, B, C, SP and the flags 0, every cell 0, HALTREQ 1, PC 15 (50_host_interface.md
section 1, 70_reset_and_hazards.md section 1; PC and memory are the spec's decisions D4 and D13, log entry 6; that
the parameters and the emitted diagnostics stay is the model's, log entries 1 and 4). -/
def Obligations.ResetValues : Prop :=
  ∀ s : State,
    hostReset s =
      { cfg := s.cfg, a := 0, b := 0, c := 0, pc := 15, sp := 0, carry := false, negative := false
        equal := false, error := false, haltReq := true, mem := (hostReset s).mem, diags := s.diags } ∧
    (∀ x, memRead (hostReset s) x = 0) ∧
    (∀ cfg x, memRead (State.resetWith cfg) x = 0 ∧ (State.resetWith cfg).pc = 15)

/-- load(seq): if it fits, cell 15 + i holds seq[i], and no other cell, register, flag, PC, SP or HALTREQ
changes; if it does not, the error and nothing written (50_host_interface.md section 2; the spec's decision
D15, log entry 13). -/
def Obligations.LoadWritesProgram : Prop :=
  ∀ (seq : List Nibble) (s : State), s.cfg.Valid →
    (seq.length ≤ s.cfg.memSize - 15 →
      ∃ t, load seq s = .loaded t ∧ t = { s with mem := t.mem } ∧
        (∀ (i : Nat) (h : i < seq.length), memRead t (15 + i) = seq[i]) ∧
        (∀ x < s.cfg.memSize, x < 15 ∨ 15 + seq.length ≤ x → memRead t x = memRead s x)) ∧
    (s.cfg.memSize - 15 < seq.length →
      load seq s = .capacityExceeded ∧ hostMove (.load seq) s = .next (s, .capacityExceeded))

/-- The first instruction after reset() and load() is the first loaded pair (70_reset_and_hazards.md sections 1
and 2; the spec's decision D4, log entry 6). -/
def Obligations.FirstPairRunsFirst : Prop :=
  ∀ (cfg : Config) (op v : Nibble) (rest : List Nibble) (t : State), cfg.Valid →
    load (op :: v :: rest) (State.resetWith cfg) = .loaded t →
      nextInstr t = decodePair op v ∧ step t = exec (decodePair op v) { t with pc := 17 }

/-- R167: every read accessor returns the current value and changes nothing; A, B, C and cells are 0 to 15, PC
and SP 0 to MEM_SIZE - 1, each flag 0 or 1. -/
def Obligations.ReadsArePure : Prop :=
  (∀ (item : ReadItem) (s : State), hostMove (.read item) s = .next (s, .value (readItem s item))) ∧
  ∀ (s : State) (x : Nat),
    (readItem s .regA = s.a.toNat ∧ readItem s .regB = s.b.toNat ∧ readItem s .regC = s.c.toNat ∧
      readItem s .pc = s.pc ∧ readItem s .sp = s.sp ∧ readItem s (.cell x) = (memRead s x).toNat ∧
      readItem s (.flag 0) = s.carry.toNat ∧ readItem s (.flag 1) = s.negative.toNat ∧
      readItem s (.flag 2) = s.equal.toNat ∧ readItem s (.flag 3) = s.error.toNat ∧
      readItem s .haltReq = s.haltReq.toNat) ∧
    (readItem s .regA ≤ 15 ∧ readItem s .regB ≤ 15 ∧ readItem s .regC ≤ 15 ∧ readItem s (.cell x) ≤ 15 ∧
      (∀ i, readItem s (.flag i) ≤ 1)) ∧
    (s.Inv → readItem s .pc < s.cfg.memSize ∧ readItem s .sp < s.cfg.memSize)

/-- The driver: once `run` has cleared HALTREQ it makes the k steps it is allowed, since nothing in a step sets it
again; after reset() it makes none (50_host_interface.md section 3; the spec's decision D14, log entries 12
and 19). -/
def Obligations.DriverStepsUntilReset : Prop :=
  ∀ (k : Nat) (s : State),
    drive k (hostRun s) = runSteps k (hostRun s) ∧ drive k (hostReset s) = .next (hostReset s)

/-- The Loader accepts a sequence of numbers exactly when every one is 0 to 15, and changes none
(50_host_interface.md section 2; the spec's decisions D15 and D17, log entry 13). -/
def Obligations.LoaderAcceptsNibblesOnly : Prop :=
  (∀ (ns : List Nat) (vs : List Nibble), checkValues ns = .ok vs ↔ vs.map BitVec.toNat = ns) ∧
  (∀ ns : List Nat, (∃ n ∈ ns, 16 ≤ n) ↔ ∃ k, checkValues ns = .error (.valueOutOfRange k))

/-- The suggested ports: with `rst` the state is reset whatever the other inputs; `step_en` alone is one step; with
nothing requested the state holds (50_host_interface.md section 5, informative; the spec's decision D30, log
entry 15). -/
def Obligations.PortsResetAndStep : Prop :=
  ∀ (p : PortIn) (s : State),
    (p.rst = true → clockEdge p s = .next (hostReset s)) ∧
    (p.rst = false → p.ldWe = false → p.runAck = false →
      (p.stepEn = true → clockEdge p s = step s) ∧ (p.stepEn = false → clockEdge p s = .next s))

/-- Loading through the ports, one cell a clock from address 15 upward, leaves the state load(seq) leaves
(50_host_interface.md section 5; the spec's decision D30, log entry 15). -/
def Obligations.PortLoadRefinesLoad : Prop :=
  ∀ (seq : List Nibble) (s t : State), load seq s = .loaded t →
    clockEdges (loadPulses seq programOrigin) s = .next t
end

