-- ==== Sys2Proof/Laws/State.lean ====
section
/-! SUPPORT. One lemma per field per register write, true by unfolding, so that no proof unfolds a record
update; and the fields of the reset state. -/

namespace Sys2Proof.Machine

variable (s : State)

@[simp] theorem State.setA_cfg (x : Nibble) : (s.setA x).cfg = s.cfg := rfl
@[simp] theorem State.setA_a (x : Nibble) : (s.setA x).a = x := rfl
@[simp] theorem State.setA_b (x : Nibble) : (s.setA x).b = s.b := rfl
@[simp] theorem State.setA_c (x : Nibble) : (s.setA x).c = s.c := rfl
@[simp] theorem State.setA_pc (x : Nibble) : (s.setA x).pc = s.pc := rfl
@[simp] theorem State.setA_sp (x : Nibble) : (s.setA x).sp = s.sp := rfl
@[simp] theorem State.setA_carry (x : Nibble) : (s.setA x).carry = s.carry := rfl
@[simp] theorem State.setA_negative (x : Nibble) : (s.setA x).negative = s.negative := rfl
@[simp] theorem State.setA_equal (x : Nibble) : (s.setA x).equal = s.equal := rfl
@[simp] theorem State.setA_error (x : Nibble) : (s.setA x).error = s.error := rfl
@[simp] theorem State.setA_haltReq (x : Nibble) : (s.setA x).haltReq = s.haltReq := rfl
@[simp] theorem State.setA_mem (x : Nibble) : (s.setA x).mem = s.mem := rfl
@[simp] theorem State.setA_diags (x : Nibble) : (s.setA x).diags = s.diags := rfl

@[simp] theorem State.setB_cfg (x : Nibble) : (s.setB x).cfg = s.cfg := rfl
@[simp] theorem State.setB_a (x : Nibble) : (s.setB x).a = s.a := rfl
@[simp] theorem State.setB_b (x : Nibble) : (s.setB x).b = x := rfl
@[simp] theorem State.setB_c (x : Nibble) : (s.setB x).c = s.c := rfl
@[simp] theorem State.setB_pc (x : Nibble) : (s.setB x).pc = s.pc := rfl
@[simp] theorem State.setB_sp (x : Nibble) : (s.setB x).sp = s.sp := rfl
@[simp] theorem State.setB_carry (x : Nibble) : (s.setB x).carry = s.carry := rfl
@[simp] theorem State.setB_negative (x : Nibble) : (s.setB x).negative = s.negative := rfl
@[simp] theorem State.setB_equal (x : Nibble) : (s.setB x).equal = s.equal := rfl
@[simp] theorem State.setB_error (x : Nibble) : (s.setB x).error = s.error := rfl
@[simp] theorem State.setB_haltReq (x : Nibble) : (s.setB x).haltReq = s.haltReq := rfl
@[simp] theorem State.setB_mem (x : Nibble) : (s.setB x).mem = s.mem := rfl
@[simp] theorem State.setB_diags (x : Nibble) : (s.setB x).diags = s.diags := rfl

@[simp] theorem State.setC_cfg (x : Nibble) : (s.setC x).cfg = s.cfg := rfl
@[simp] theorem State.setC_a (x : Nibble) : (s.setC x).a = s.a := rfl
@[simp] theorem State.setC_b (x : Nibble) : (s.setC x).b = s.b := rfl
@[simp] theorem State.setC_c (x : Nibble) : (s.setC x).c = x := rfl
@[simp] theorem State.setC_pc (x : Nibble) : (s.setC x).pc = s.pc := rfl
@[simp] theorem State.setC_sp (x : Nibble) : (s.setC x).sp = s.sp := rfl
@[simp] theorem State.setC_carry (x : Nibble) : (s.setC x).carry = s.carry := rfl
@[simp] theorem State.setC_negative (x : Nibble) : (s.setC x).negative = s.negative := rfl
@[simp] theorem State.setC_equal (x : Nibble) : (s.setC x).equal = s.equal := rfl
@[simp] theorem State.setC_error (x : Nibble) : (s.setC x).error = s.error := rfl
@[simp] theorem State.setC_haltReq (x : Nibble) : (s.setC x).haltReq = s.haltReq := rfl
@[simp] theorem State.setC_mem (x : Nibble) : (s.setC x).mem = s.mem := rfl
@[simp] theorem State.setC_diags (x : Nibble) : (s.setC x).diags = s.diags := rfl

@[simp] theorem State.setPc_cfg (x : Nat) : (s.setPc x).cfg = s.cfg := rfl
@[simp] theorem State.setPc_a (x : Nat) : (s.setPc x).a = s.a := rfl
@[simp] theorem State.setPc_b (x : Nat) : (s.setPc x).b = s.b := rfl
@[simp] theorem State.setPc_c (x : Nat) : (s.setPc x).c = s.c := rfl
@[simp] theorem State.setPc_pc (x : Nat) : (s.setPc x).pc = x := rfl
@[simp] theorem State.setPc_sp (x : Nat) : (s.setPc x).sp = s.sp := rfl
@[simp] theorem State.setPc_carry (x : Nat) : (s.setPc x).carry = s.carry := rfl
@[simp] theorem State.setPc_negative (x : Nat) : (s.setPc x).negative = s.negative := rfl
@[simp] theorem State.setPc_equal (x : Nat) : (s.setPc x).equal = s.equal := rfl
@[simp] theorem State.setPc_error (x : Nat) : (s.setPc x).error = s.error := rfl
@[simp] theorem State.setPc_haltReq (x : Nat) : (s.setPc x).haltReq = s.haltReq := rfl
@[simp] theorem State.setPc_mem (x : Nat) : (s.setPc x).mem = s.mem := rfl
@[simp] theorem State.setPc_diags (x : Nat) : (s.setPc x).diags = s.diags := rfl

@[simp] theorem State.setSp_cfg (x : Nat) : (s.setSp x).cfg = s.cfg := rfl
@[simp] theorem State.setSp_a (x : Nat) : (s.setSp x).a = s.a := rfl
@[simp] theorem State.setSp_b (x : Nat) : (s.setSp x).b = s.b := rfl
@[simp] theorem State.setSp_c (x : Nat) : (s.setSp x).c = s.c := rfl
@[simp] theorem State.setSp_pc (x : Nat) : (s.setSp x).pc = s.pc := rfl
@[simp] theorem State.setSp_sp (x : Nat) : (s.setSp x).sp = x := rfl
@[simp] theorem State.setSp_carry (x : Nat) : (s.setSp x).carry = s.carry := rfl
@[simp] theorem State.setSp_negative (x : Nat) : (s.setSp x).negative = s.negative := rfl
@[simp] theorem State.setSp_equal (x : Nat) : (s.setSp x).equal = s.equal := rfl
@[simp] theorem State.setSp_error (x : Nat) : (s.setSp x).error = s.error := rfl
@[simp] theorem State.setSp_haltReq (x : Nat) : (s.setSp x).haltReq = s.haltReq := rfl
@[simp] theorem State.setSp_mem (x : Nat) : (s.setSp x).mem = s.mem := rfl
@[simp] theorem State.setSp_diags (x : Nat) : (s.setSp x).diags = s.diags := rfl

@[simp] theorem State.setCarry_cfg (x : Bool) : (s.setCarry x).cfg = s.cfg := rfl
@[simp] theorem State.setCarry_a (x : Bool) : (s.setCarry x).a = s.a := rfl
@[simp] theorem State.setCarry_b (x : Bool) : (s.setCarry x).b = s.b := rfl
@[simp] theorem State.setCarry_c (x : Bool) : (s.setCarry x).c = s.c := rfl
@[simp] theorem State.setCarry_pc (x : Bool) : (s.setCarry x).pc = s.pc := rfl
@[simp] theorem State.setCarry_sp (x : Bool) : (s.setCarry x).sp = s.sp := rfl
@[simp] theorem State.setCarry_carry (x : Bool) : (s.setCarry x).carry = x := rfl
@[simp] theorem State.setCarry_negative (x : Bool) : (s.setCarry x).negative = s.negative := rfl
@[simp] theorem State.setCarry_equal (x : Bool) : (s.setCarry x).equal = s.equal := rfl
@[simp] theorem State.setCarry_error (x : Bool) : (s.setCarry x).error = s.error := rfl
@[simp] theorem State.setCarry_haltReq (x : Bool) : (s.setCarry x).haltReq = s.haltReq := rfl
@[simp] theorem State.setCarry_mem (x : Bool) : (s.setCarry x).mem = s.mem := rfl
@[simp] theorem State.setCarry_diags (x : Bool) : (s.setCarry x).diags = s.diags := rfl

@[simp] theorem State.setNegative_cfg (x : Bool) : (s.setNegative x).cfg = s.cfg := rfl
@[simp] theorem State.setNegative_a (x : Bool) : (s.setNegative x).a = s.a := rfl
@[simp] theorem State.setNegative_b (x : Bool) : (s.setNegative x).b = s.b := rfl
@[simp] theorem State.setNegative_c (x : Bool) : (s.setNegative x).c = s.c := rfl
@[simp] theorem State.setNegative_pc (x : Bool) : (s.setNegative x).pc = s.pc := rfl
@[simp] theorem State.setNegative_sp (x : Bool) : (s.setNegative x).sp = s.sp := rfl
@[simp] theorem State.setNegative_carry (x : Bool) : (s.setNegative x).carry = s.carry := rfl
@[simp] theorem State.setNegative_negative (x : Bool) : (s.setNegative x).negative = x := rfl
@[simp] theorem State.setNegative_equal (x : Bool) : (s.setNegative x).equal = s.equal := rfl
@[simp] theorem State.setNegative_error (x : Bool) : (s.setNegative x).error = s.error := rfl
@[simp] theorem State.setNegative_haltReq (x : Bool) : (s.setNegative x).haltReq = s.haltReq := rfl
@[simp] theorem State.setNegative_mem (x : Bool) : (s.setNegative x).mem = s.mem := rfl
@[simp] theorem State.setNegative_diags (x : Bool) : (s.setNegative x).diags = s.diags := rfl

@[simp] theorem State.setEqual_cfg (x : Bool) : (s.setEqual x).cfg = s.cfg := rfl
@[simp] theorem State.setEqual_a (x : Bool) : (s.setEqual x).a = s.a := rfl
@[simp] theorem State.setEqual_b (x : Bool) : (s.setEqual x).b = s.b := rfl
@[simp] theorem State.setEqual_c (x : Bool) : (s.setEqual x).c = s.c := rfl
@[simp] theorem State.setEqual_pc (x : Bool) : (s.setEqual x).pc = s.pc := rfl
@[simp] theorem State.setEqual_sp (x : Bool) : (s.setEqual x).sp = s.sp := rfl
@[simp] theorem State.setEqual_carry (x : Bool) : (s.setEqual x).carry = s.carry := rfl
@[simp] theorem State.setEqual_negative (x : Bool) : (s.setEqual x).negative = s.negative := rfl
@[simp] theorem State.setEqual_equal (x : Bool) : (s.setEqual x).equal = x := rfl
@[simp] theorem State.setEqual_error (x : Bool) : (s.setEqual x).error = s.error := rfl
@[simp] theorem State.setEqual_haltReq (x : Bool) : (s.setEqual x).haltReq = s.haltReq := rfl
@[simp] theorem State.setEqual_mem (x : Bool) : (s.setEqual x).mem = s.mem := rfl
@[simp] theorem State.setEqual_diags (x : Bool) : (s.setEqual x).diags = s.diags := rfl

@[simp] theorem State.setError_cfg (x : Bool) : (s.setError x).cfg = s.cfg := rfl
@[simp] theorem State.setError_a (x : Bool) : (s.setError x).a = s.a := rfl
@[simp] theorem State.setError_b (x : Bool) : (s.setError x).b = s.b := rfl
@[simp] theorem State.setError_c (x : Bool) : (s.setError x).c = s.c := rfl
@[simp] theorem State.setError_pc (x : Bool) : (s.setError x).pc = s.pc := rfl
@[simp] theorem State.setError_sp (x : Bool) : (s.setError x).sp = s.sp := rfl
@[simp] theorem State.setError_carry (x : Bool) : (s.setError x).carry = s.carry := rfl
@[simp] theorem State.setError_negative (x : Bool) : (s.setError x).negative = s.negative := rfl
@[simp] theorem State.setError_equal (x : Bool) : (s.setError x).equal = s.equal := rfl
@[simp] theorem State.setError_error (x : Bool) : (s.setError x).error = x := rfl
@[simp] theorem State.setError_haltReq (x : Bool) : (s.setError x).haltReq = s.haltReq := rfl
@[simp] theorem State.setError_mem (x : Bool) : (s.setError x).mem = s.mem := rfl
@[simp] theorem State.setError_diags (x : Bool) : (s.setError x).diags = s.diags := rfl

@[simp] theorem State.setHaltReq_cfg (x : Bool) : (s.setHaltReq x).cfg = s.cfg := rfl
@[simp] theorem State.setHaltReq_a (x : Bool) : (s.setHaltReq x).a = s.a := rfl
@[simp] theorem State.setHaltReq_b (x : Bool) : (s.setHaltReq x).b = s.b := rfl
@[simp] theorem State.setHaltReq_c (x : Bool) : (s.setHaltReq x).c = s.c := rfl
@[simp] theorem State.setHaltReq_pc (x : Bool) : (s.setHaltReq x).pc = s.pc := rfl
@[simp] theorem State.setHaltReq_sp (x : Bool) : (s.setHaltReq x).sp = s.sp := rfl
@[simp] theorem State.setHaltReq_carry (x : Bool) : (s.setHaltReq x).carry = s.carry := rfl
@[simp] theorem State.setHaltReq_negative (x : Bool) : (s.setHaltReq x).negative = s.negative := rfl
@[simp] theorem State.setHaltReq_equal (x : Bool) : (s.setHaltReq x).equal = s.equal := rfl
@[simp] theorem State.setHaltReq_error (x : Bool) : (s.setHaltReq x).error = s.error := rfl
@[simp] theorem State.setHaltReq_haltReq (x : Bool) : (s.setHaltReq x).haltReq = x := rfl
@[simp] theorem State.setHaltReq_mem (x : Bool) : (s.setHaltReq x).mem = s.mem := rfl
@[simp] theorem State.setHaltReq_diags (x : Bool) : (s.setHaltReq x).diags = s.diags := rfl

@[simp] theorem State.setMem_cfg (x : Memory) : (s.setMem x).cfg = s.cfg := rfl
@[simp] theorem State.setMem_a (x : Memory) : (s.setMem x).a = s.a := rfl
@[simp] theorem State.setMem_b (x : Memory) : (s.setMem x).b = s.b := rfl
@[simp] theorem State.setMem_c (x : Memory) : (s.setMem x).c = s.c := rfl
@[simp] theorem State.setMem_pc (x : Memory) : (s.setMem x).pc = s.pc := rfl
@[simp] theorem State.setMem_sp (x : Memory) : (s.setMem x).sp = s.sp := rfl
@[simp] theorem State.setMem_carry (x : Memory) : (s.setMem x).carry = s.carry := rfl
@[simp] theorem State.setMem_negative (x : Memory) : (s.setMem x).negative = s.negative := rfl
@[simp] theorem State.setMem_equal (x : Memory) : (s.setMem x).equal = s.equal := rfl
@[simp] theorem State.setMem_error (x : Memory) : (s.setMem x).error = s.error := rfl
@[simp] theorem State.setMem_haltReq (x : Memory) : (s.setMem x).haltReq = s.haltReq := rfl
@[simp] theorem State.setMem_mem (x : Memory) : (s.setMem x).mem = x := rfl
@[simp] theorem State.setMem_diags (x : Memory) : (s.setMem x).diags = s.diags := rfl

@[simp] theorem State.setDiags_cfg (x : List Diagnostic) : (s.setDiags x).cfg = s.cfg := rfl
@[simp] theorem State.setDiags_a (x : List Diagnostic) : (s.setDiags x).a = s.a := rfl
@[simp] theorem State.setDiags_b (x : List Diagnostic) : (s.setDiags x).b = s.b := rfl
@[simp] theorem State.setDiags_c (x : List Diagnostic) : (s.setDiags x).c = s.c := rfl
@[simp] theorem State.setDiags_pc (x : List Diagnostic) : (s.setDiags x).pc = s.pc := rfl
@[simp] theorem State.setDiags_sp (x : List Diagnostic) : (s.setDiags x).sp = s.sp := rfl
@[simp] theorem State.setDiags_carry (x : List Diagnostic) : (s.setDiags x).carry = s.carry := rfl
@[simp] theorem State.setDiags_negative (x : List Diagnostic) : (s.setDiags x).negative = s.negative := rfl
@[simp] theorem State.setDiags_equal (x : List Diagnostic) : (s.setDiags x).equal = s.equal := rfl
@[simp] theorem State.setDiags_error (x : List Diagnostic) : (s.setDiags x).error = s.error := rfl
@[simp] theorem State.setDiags_haltReq (x : List Diagnostic) : (s.setDiags x).haltReq = s.haltReq := rfl
@[simp] theorem State.setDiags_mem (x : List Diagnostic) : (s.setDiags x).mem = s.mem := rfl
@[simp] theorem State.setDiags_diags (x : List Diagnostic) : (s.setDiags x).diags = x := rfl

/-! The reset state (10_state.md R35). -/

section
variable (cfg : Config)

@[simp] theorem State.resetWith_cfg : (State.resetWith cfg).cfg = cfg := rfl
@[simp] theorem State.resetWith_a : (State.resetWith cfg).a = 0 := rfl
@[simp] theorem State.resetWith_b : (State.resetWith cfg).b = 0 := rfl
@[simp] theorem State.resetWith_c : (State.resetWith cfg).c = 0 := rfl
@[simp] theorem State.resetWith_pc : (State.resetWith cfg).pc = programOrigin := rfl
@[simp] theorem State.resetWith_sp : (State.resetWith cfg).sp = 0 := rfl
@[simp] theorem State.resetWith_carry : (State.resetWith cfg).carry = false := rfl
@[simp] theorem State.resetWith_negative : (State.resetWith cfg).negative = false := rfl
@[simp] theorem State.resetWith_equal : (State.resetWith cfg).equal = false := rfl
@[simp] theorem State.resetWith_error : (State.resetWith cfg).error = false := rfl
@[simp] theorem State.resetWith_haltReq : (State.resetWith cfg).haltReq = true := rfl
@[simp] theorem State.resetWith_mem : (State.resetWith cfg).mem = [] := rfl
@[simp] theorem State.resetWith_diags : (State.resetWith cfg).diags = [] := rfl

end

end Sys2Proof.Machine
end

