-- ==== Sys2Proof/Laws/Memory.lean ====
section
/-! SUPPORT. Memory as a list behaves as "a function from addresses to nibbles updated in place"
(20_memory.md R59), and every memory operation keeps the canonical form. -/

/-- There is always at least one cell, so addresses reduce. -/
theorem Sys2Proof.Config.memSize_pos (cfg : Sys2Proof.Config) : 0 < cfg.memSize := Nat.two_pow_pos _

namespace Sys2Proof.Machine

/-! Reading after the parts of a write. -/

theorem cellAt_dropCell (m : Memory) (x y : Nat) :
    cellAt (dropCell m x) y = if y = x then unlistedCell else cellAt m y := by
  induction m with
  | nil => simp [dropCell, cellAt]
  | cons e m ih =>
    obtain ⟨k, w⟩ := e
    simp only [dropCell, List.filter_cons] at ih ⊢
    by_cases hk : k = x <;> by_cases hy : y = x <;> by_cases hky : k = y <;>
      simp_all [cellAt]

theorem cellAt_insertCell (m : Memory) (x y : Nat) (v : Nibble) (h : ∀ e ∈ m, e.1 ≠ x) :
    cellAt (insertCell m x v) y = if y = x then v else cellAt m y := by
  induction m with
  | nil => simp [insertCell, cellAt, eq_comm]
  | cons e m ih =>
    obtain ⟨k, w⟩ := e
    have hk : k ≠ x := h (k, w) (by simp)
    have hm : ∀ e ∈ m, e.1 ≠ x := fun e he => h e (by simp [he])
    unfold insertCell
    split
    · by_cases hy : y = x
      · simp [cellAt, hy]
      · simp [cellAt, hy, Ne.symm hy]
    · by_cases hy : y = x <;> by_cases hky : k = y <;> simp_all [cellAt]

theorem mem_dropCell {m : Memory} {x : Nat} {e : Nat × Nibble} :
    e ∈ dropCell m x ↔ e ∈ m ∧ e.1 ≠ x := by
  simp [dropCell]

theorem mem_insertCell {m : Memory} {x : Nat} {v : Nibble} {e : Nat × Nibble} :
    e ∈ insertCell m x v ↔ e = (x, v) ∨ e ∈ m := by
  induction m with
  | nil => simp [insertCell]
  | cons f m ih =>
    obtain ⟨k, w⟩ := f
    unfold insertCell
    split
    · simp
    · simp [ih]
      tauto

/-- A read after a write: the value written at that address, the old value at every other. -/
theorem cellAt_putCell (m : Memory) (x y : Nat) (v : Nibble) :
    cellAt (putCell m x v) y = if y = x then v else cellAt m y := by
  unfold putCell
  split
  · next h => rw [cellAt_dropCell, h]
  · rw [cellAt_insertCell _ _ _ _ (fun e he => (mem_dropCell.mp he).2), cellAt_dropCell]
    split <;> rfl

/-! The canonical form. -/

theorem dropCell_wf {m : Memory} (x : Nat) (h : Memory.wf m) : Memory.wf (dropCell m x) :=
  ⟨h.1.filter _, fun e he => h.2 e (mem_dropCell.mp he).1⟩

theorem insertCell_wf {m : Memory} {x : Nat} {v : Nibble} (h : Memory.wf m) (hv : v ≠ unlistedCell)
    (hx : ∀ e ∈ m, e.1 ≠ x) : Memory.wf (insertCell m x v) := by
  refine ⟨?_, fun e he => ?_⟩
  · induction m with
    | nil => simp [insertCell]
    | cons e m ih =>
      obtain ⟨k, w⟩ := e
      obtain ⟨hk, hm⟩ := List.pairwise_cons.mp h.1
      have hkx : k ≠ x := hx (k, w) (by simp)
      unfold insertCell
      split
      · next hlt =>
        refine List.pairwise_cons.mpr ⟨fun f hf => ?_, h.1⟩
        rcases List.mem_cons.mp hf with rfl | hf
        · exact hlt
        · exact hlt.trans (hk f hf)
      · next hlt =>
        refine List.pairwise_cons.mpr ⟨fun f hf => ?_, ih ⟨hm, fun e he => h.2 e (by simp [he])⟩
          (fun e he => hx e (by simp [he]))⟩
        rcases mem_insertCell.mp hf with rfl | hf
        · show k < x
          omega
        · exact hk f hf
  · rcases mem_insertCell.mp he with rfl | he
    · exact hv
    · exact h.2 e he

/-- A write keeps the canonical form. -/
theorem putCell_wf {m : Memory} (x : Nat) (v : Nibble) (h : Memory.wf m) : Memory.wf (putCell m x v) := by
  unfold putCell
  split
  · exact dropCell_wf x h
  · next hv => exact insertCell_wf (dropCell_wf x h) hv (fun e he => (mem_dropCell.mp he).2)

/-- A write lists no address but its own and those listed before. -/
theorem mem_putCell {m : Memory} {x : Nat} {v : Nibble} {e : Nat × Nibble} (h : e ∈ putCell m x v) :
    e = (x, v) ∨ e ∈ m := by
  unfold putCell at h
  split at h
  · exact .inr (mem_dropCell.mp h).1
  · exact (mem_insertCell.mp h).imp_right (fun he => (mem_dropCell.mp he).1)

/-- The memory after reset is in canonical form. -/
theorem reset_mem_wf (cfg : Config) : Memory.wf (State.resetWith cfg).mem := by
  simp [Memory.wf]

end Sys2Proof.Machine
end

