-- ==== Sys2Proof/Laws/Ops.lean ====
section
/-! SUPPORT. What each shared operation can do, said once, for proofs to cite instead of unfolding it. -/

namespace Sys2Proof.Machine

/-! Memory accesses (00_scope.md R12). -/

theorem memRead_memWrite (s : State) (x y : Nat) (v : Nibble) :
    memRead (memWrite s x v) y =
      if y % s.cfg.memSize = x % s.cfg.memSize then v else memRead s y := by
  simp [memRead, memWrite, cellAt_putCell]

theorem memRead_congr {s t : State} (hc : t.cfg = s.cfg) (hm : t.mem = s.mem) (x : Nat) :
    memRead t x = memRead s x := by
  simp [memRead, hc, hm]

theorem memRead_mod (s : State) (x : Nat) : memRead s (x % s.cfg.memSize) = memRead s x := by
  simp [memRead]

/-! A register write changes no cell, a memory write no register. -/

@[simp] theorem memRead_setA (s : State) (y : Nibble) (x : Nat) :
    memRead (s.setA y) x = memRead s x := rfl
@[simp] theorem memRead_setB (s : State) (y : Nibble) (x : Nat) :
    memRead (s.setB y) x = memRead s x := rfl
@[simp] theorem memRead_setC (s : State) (y : Nibble) (x : Nat) :
    memRead (s.setC y) x = memRead s x := rfl
@[simp] theorem memRead_setPc (s : State) (y : Nat) (x : Nat) :
    memRead (s.setPc y) x = memRead s x := rfl
@[simp] theorem memRead_setSp (s : State) (y : Nat) (x : Nat) :
    memRead (s.setSp y) x = memRead s x := rfl
@[simp] theorem memRead_setCarry (s : State) (y : Bool) (x : Nat) :
    memRead (s.setCarry y) x = memRead s x := rfl
@[simp] theorem memRead_setNegative (s : State) (y : Bool) (x : Nat) :
    memRead (s.setNegative y) x = memRead s x := rfl
@[simp] theorem memRead_setEqual (s : State) (y : Bool) (x : Nat) :
    memRead (s.setEqual y) x = memRead s x := rfl
@[simp] theorem memRead_setError (s : State) (y : Bool) (x : Nat) :
    memRead (s.setError y) x = memRead s x := rfl
@[simp] theorem memRead_setHaltReq (s : State) (y : Bool) (x : Nat) :
    memRead (s.setHaltReq y) x = memRead s x := rfl
@[simp] theorem memRead_setDiags (s : State) (y : List Diagnostic) (x : Nat) :
    memRead (s.setDiags y) x = memRead s x := rfl

@[simp] theorem memWrite_cfg (s : State) (x : Nat) (v : Nibble) : (memWrite s x v).cfg = s.cfg := rfl
@[simp] theorem memWrite_a (s : State) (x : Nat) (v : Nibble) : (memWrite s x v).a = s.a := rfl
@[simp] theorem memWrite_b (s : State) (x : Nat) (v : Nibble) : (memWrite s x v).b = s.b := rfl
@[simp] theorem memWrite_c (s : State) (x : Nat) (v : Nibble) : (memWrite s x v).c = s.c := rfl
@[simp] theorem memWrite_pc (s : State) (x : Nat) (v : Nibble) : (memWrite s x v).pc = s.pc := rfl
@[simp] theorem memWrite_sp (s : State) (x : Nat) (v : Nibble) : (memWrite s x v).sp = s.sp := rfl
@[simp] theorem memWrite_carry (s : State) (x : Nat) (v : Nibble) :
    (memWrite s x v).carry = s.carry := rfl
@[simp] theorem memWrite_negative (s : State) (x : Nat) (v : Nibble) :
    (memWrite s x v).negative = s.negative := rfl
@[simp] theorem memWrite_equal (s : State) (x : Nat) (v : Nibble) :
    (memWrite s x v).equal = s.equal := rfl
@[simp] theorem memWrite_error (s : State) (x : Nat) (v : Nibble) :
    (memWrite s x v).error = s.error := rfl
@[simp] theorem memWrite_haltReq (s : State) (x : Nat) (v : Nibble) :
    (memWrite s x v).haltReq = s.haltReq := rfl
@[simp] theorem memWrite_diags (s : State) (x : Nat) (v : Nibble) :
    (memWrite s x v).diags = s.diags := rfl

/-- The memory a write leaves. -/
theorem memWrite_mem (s : State) (x : Nat) (v : Nibble) :
    (memWrite s x v).mem = putCell s.mem (x % s.cfg.memSize) v := rfl

theorem memWrite_wf {s : State} (x : Nat) (v : Nibble) (h : Memory.wf s.mem) :
    Memory.wf (memWrite s x v).mem :=
  putCell_wf _ _ h

theorem memWrite_mem_lt {s : State} (x : Nat) (v : Nibble) (h : ∀ e ∈ s.mem, e.1 < s.cfg.memSize) :
    ∀ e ∈ (memWrite s x v).mem, e.1 < s.cfg.memSize := by
  intro e he
  rcases mem_putCell he with rfl | he
  · exact Nat.mod_lt _ (Config.memSize_pos _)
  · exact h e he

/-! The program counter. -/

theorem addrPlus_lt (cfg : Config) (x d : Nat) : addrPlus cfg x d < cfg.memSize :=
  Nat.mod_lt _ (Config.memSize_pos _)

/-- Two increments are one of two cells, each reduced (10_state.md R23). -/
theorem addrPlus_addrPlus (cfg : Config) (x d e : Nat) :
    addrPlus cfg (addrPlus cfg x d) e = addrPlus cfg x (d + e) := by
  simp [addrPlus, Nat.add_assoc]

/-- Everything a fetch does (40_step_cycle.md R92). -/
theorem fetch_eq (s : State) :
    fetch s = { op := memRead s s.pc, v := memRead s (s.pc + 1), after := s.setPc (addrPlus s.cfg s.pc 2) } := by
  have h : memRead (s.setPc (addrPlus s.cfg s.pc 1)) (addrPlus s.cfg s.pc 1) = memRead s (s.pc + 1) := by
    simp [memRead, addrPlus]
  simp only [fetch, State.setPc_pc, State.setPc_cfg, addrPlus_addrPlus, h]
  rfl

/-- Everything the first action of a step does (40_step_cycle.md R91): nothing, where PC is an address. -/
theorem normalisePc_eq {s : State} (h : s.pc < s.cfg.memSize) : normalisePc s = s := by
  simp [normalisePc, State.setPc, Nat.mod_eq_of_lt h]

/-- Everything a skip can do (45_control.md R137). -/
theorem skipIf_cases (flag : Bool) (s : State) :
    (flag = true ∧ skipIf flag s = s.setPc (addrPlus s.cfg s.pc 2)) ∨
      (flag = false ∧ skipIf flag s = s) := by
  cases flag <;> simp [skipIf, skipDistance]

/-! The stack (46_stack.md R150). -/

/-- Everything a push can do (46_stack.md R152). -/
theorem pushCell_cases (v : Nibble) (s : State) :
    (s.cfg.stackBoundary ≤ s.sp ∧ pushCell v s = s.setError true) ∨
      (s.sp < s.cfg.stackBoundary ∧ pushCell v s = (memWrite s s.sp v).setSp (s.sp + 1)) := by
  by_cases h : s.cfg.stackBoundary ≤ s.sp
  · exact .inl ⟨h, by simp [pushCell, stackFull, h, raiseStackError]⟩
  · exact .inr ⟨by omega, by simp [pushCell, stackFull, h]⟩

/-- Everything a pop can do (46_stack.md R153). -/
theorem popCell_cases (use : Nibble → State → State) (s : State) :
    (s.sp = 0 ∧ popCell use s = s.setError true) ∨
      (0 < s.sp ∧ popCell use s = use (memRead s (s.sp - 1)) (s.setSp (s.sp - 1))) := by
  by_cases h : s.sp = 0
  · exact .inl ⟨h, by simp [popCell, stackEmpty, h, raiseStackError]⟩
  · exact .inr ⟨by omega, by simp [popCell, stackEmpty, h]⟩

/-! The truncation law and the flags (43_arithmetic.md R115). -/

/-- The truncated value as a number: the floored remainder, 0 to 14. -/
theorem trunc15_toNat (x : Int) : ((trunc15 x).toNat : Int) = x % 15 := by
  have h0 := Int.emod_nonneg x (show (15 : Int) ≠ 0 by decide)
  have h1 := Int.emod_lt_of_pos x (show (0 : Int) < 15 by decide)
  simp only [trunc15, truncMod, BitVec.toNat_ofNat]
  omega

/-- Truncating a number that is not negative. -/
theorem trunc15_natCast (n : Nat) : trunc15 (n : Int) = BitVec.ofNat 4 (n % 15) := by
  have h : ((n : Int) % truncMod).toNat = n % 15 := by
    simp only [truncMod]
    omega
  rw [trunc15, h]

/-- Truncating a difference of two nibbles. -/
theorem trunc15_wideDiff (x y : Nibble) :
    trunc15 (wideDiff x y) = BitVec.ofNat 4 ((x.toNat + 15 - y.toNat) % 15) := by
  have hy := y.isLt
  have h : (wideDiff x y % truncMod).toNat = (x.toNat + 15 - y.toNat) % 15 := by
    simp only [wideDiff, truncMod]
    omega
  rw [trunc15, h]

/-- Everything an add does. -/
theorem addToA_eq (x : Nibble) (s : State) :
    addToA x s = { s with a := trunc15 (wideSum s.a x), carry := carryOfSum (wideSum s.a x) } := rfl

/-- Everything a subtract does. -/
theorem subFromA_eq (x : Nibble) (s : State) :
    subFromA x s =
      { s with
        a := trunc15 (wideDiff s.a x)
        carry := borrowOfDiff (wideDiff s.a x)
        negative := borrowOfDiff (wideDiff s.a x) } := rfl

/-- Everything a compare does. -/
theorem compareA_eq (x : Nibble) (s : State) : compareA x s = { s with equal := equalOf s.a x } := rfl

/-! Loading (50_host_interface.md R168). -/

/-- Writing cells changes the memory and nothing else. -/
theorem writeCells_eq (vs : List Nibble) (x : Nat) (s : State) :
    writeCells vs x s = { s with mem := (writeCells vs x s).mem } := by
  induction vs generalizing x s with
  | nil => rfl
  | cons v vs ih =>
    rw [writeCells, ih]
    rfl

end Sys2Proof.Machine
end

