-- ==== Sys2Proof/Laws/PerInstr.lean ====
section
/-! SUPPORT. The per-instruction family WordInTable: the word the encoder writes for an instruction is a word
of that instruction's row (or rows) of spec/opcode_table.json. -/

namespace Sys2Proof.Laws.WordInTable

/-- The `match` and `mask` of each row of spec/opcode_table.json that stands for an instruction. -/
def tableRows : Instr → List (Nat × Nat)
  | .lda _ => [(0x10, 0xF0)]
  | .sta _ => [(0x20, 0xF0)]
  | .cmp _ => [(0x30, 0xF0)]
  | .add _ => [(0x40, 0xF0)]
  | .sub _ => [(0x50, 0xF0)]
  | .and _ => [(0x60, 0xF0)]
  | .xor _ => [(0x70, 0xF0)]
  | .or _ => [(0x80, 0xF0)]
  | .not => [(0x90, 0xF0)]
  | .ldi _ => [(0xA0, 0xF0)]
  | .jmp _ => [(0xB0, 0xF0)]
  | .ssp _ => [(0xC0, 0xF0)]
  | .adi _ => [(0xD0, 0xF0)]
  | .sbi _ => [(0xE0, 0xF0)]
  | .cmpf _ => [(0xF0, 0xF0)]
  | .nop => [(0x00, 0xFF)]
  | .push => [(0x01, 0xFF)]
  | .pop => [(0x02, 0xFF)]
  | .pushpc => [(0x03, 0xFF)]
  | .poppc => [(0x04, 0xFF)]
  | .swab => [(0x05, 0xFF)]
  | .swbc => [(0x06, 0xFF)]
  | .skc => [(0x07, 0xFF)]
  | .skn => [(0x08, 0xFF)]
  | .ske => [(0x09, 0xFF)]
  | .invsec _ => [(0x0A, 0xFF), (0x0B, 0xFF), (0x0C, 0xFF), (0x0D, 0xFF), (0x0E, 0xFF), (0x0F, 0xFF)]

/-- Two cells as the 8-bit word `IW` (00_scope.md R14); no other list is an instruction. -/
def wordOf : List Nibble → Option Nat
  | [op, v] => some (16 * op.toNat + v.toNat)
  | _ => none

/-- Whether a word is in a row. -/
def inRow (w : Option Nat) (row : Nat × Nat) : Bool := w.any (fun n => n &&& row.2 == row.1)

/-- A well-formed instruction is encoded in two cells whose word is in one of its rows. -/
def Statement (i : Instr) : Prop :=
  i.wellFormed = true → (tableRows i).any (inRow (wordOf (encode i))) = true

theorem lda (v : Nibble) : Statement (.lda v) := fun _ => by revert v; decide
theorem sta (v : Nibble) : Statement (.sta v) := fun _ => by revert v; decide
theorem cmp (v : Nibble) : Statement (.cmp v) := fun _ => by revert v; decide
theorem add (v : Nibble) : Statement (.add v) := fun _ => by revert v; decide
theorem sub (v : Nibble) : Statement (.sub v) := fun _ => by revert v; decide
theorem and (v : Nibble) : Statement (.and v) := fun _ => by revert v; decide
theorem xor (v : Nibble) : Statement (.xor v) := fun _ => by revert v; decide
theorem or (v : Nibble) : Statement (.or v) := fun _ => by revert v; decide
theorem not : Statement .not := fun _ => by decide
theorem ldi (v : Nibble) : Statement (.ldi v) := fun _ => by revert v; decide
theorem jmp (v : Nibble) : Statement (.jmp v) := fun _ => by revert v; decide
theorem ssp (v : Nibble) : Statement (.ssp v) := fun _ => by revert v; decide
theorem adi (v : Nibble) : Statement (.adi v) := fun _ => by revert v; decide
theorem sbi (v : Nibble) : Statement (.sbi v) := fun _ => by revert v; decide
theorem cmpf (v : Nibble) : Statement (.cmpf v) := fun _ => by revert v; decide
theorem nop : Statement .nop := fun _ => by decide
theorem push : Statement .push := fun _ => by decide
theorem pop : Statement .pop := fun _ => by decide
theorem pushpc : Statement .pushpc := fun _ => by decide
theorem poppc : Statement .poppc := fun _ => by decide
theorem swab : Statement .swab := fun _ => by decide
theorem swbc : Statement .swbc := fun _ => by decide
theorem skc : Statement .skc := fun _ => by decide
theorem skn : Statement .skn := fun _ => by decide
theorem ske : Statement .ske := fun _ => by decide
theorem invsec (v : Nibble) : Statement (.invsec v) := by
  unfold Statement
  revert v
  decide

end Sys2Proof.Laws.WordInTable
end

