-- ==== Sys2Proof/Laws/Run.lean ====
section
/-! SUPPORT. Runs of several steps, one step at a time, and what load() answers. -/

namespace Sys2Proof.Machine

theorem runSteps_zero (s : State) : runSteps 0 s = .next s := rfl

/-- A run of `k + 1` steps is a step and a run of `k`. -/
theorem runSteps_succ {s t : State} (h : step s = .next t) (k : Nat) :
    runSteps (k + 1) s = runSteps k t := by
  simp only [runSteps, h]

/-- A run of the host's, one step at a time. -/
theorem core_run_succ (M : Host.Core) (k : Nat) (s : M.State) :
    (∀ t, M.step s = .next t → M.run (k + 1) s = M.run k t) ∧
    (∀ r, M.step s = .refused r → M.run (k + 1) s = .refused r) := by
  refine ⟨?_, ?_⟩ <;> intro x h <;> simp [Host.Core.run, h]

/-- The model's runs are the host's. -/
theorem runSteps_eq_core_run (k : Nat) (s : State) : runSteps k s = Sys2Proof.core.run k s := by
  induction k generalizing s with
  | zero => rfl
  | succ k ih =>
    obtain ⟨hn, hr⟩ := core_run_succ Sys2Proof.core k s
    cases h : step s with
    | next t => exact (runSteps_succ h k).trans ((ih t).trans (hn t h).symm)
    | fault r => exact r.rec
    | refused r =>
      have hl : runSteps (k + 1) s = .refused r := by simp only [runSteps, h]
      exact hl.trans (hr r h).symm

/-- The driver's next step, HALTREQ being 0. -/
theorem drive_succ {s t : State} (hr : s.haltReq = false) (h : step s = .next t) (fuel : Nat) :
    drive (fuel + 1) s = drive fuel t := by
  simp [drive, hr, h]

/-- Everything load() can do (50_host_interface.md R168, R169). -/
theorem load_cases (seq : List Nibble) (s : State) :
    (seq.length ≤ s.cfg.memSize - 15 ∧ load seq s = .loaded (writeCells seq 15 s)) ∨
      (s.cfg.memSize - 15 < seq.length ∧ load seq s = .capacityExceeded) := by
  have hc : loadCapacity s.cfg = s.cfg.memSize - 15 := rfl
  have ho : programOrigin = 15 := rfl
  by_cases h : seq.length ≤ s.cfg.memSize - 15
  · exact .inl ⟨h, by rw [load, hc, ho, if_pos h]⟩
  · exact .inr ⟨by omega, by rw [load, hc, ho, if_neg h]⟩

end Sys2Proof.Machine
end

