-- ==== Sys2Proof/Machine/Assembler.lean ====
section
/-! DEFINITION. The spec's assembler syntax (30_encoding.md R83, R84): one instruction per line, `MNEMONIC` or
`MNEMONIC V`, a comment after a semicolon, `JMP @label` (log entry 18). -/

namespace Sys2Proof.Machine

/-- The addresses that a listing's labels stand at. -/
abbrev Labels := List (List Char × Nat)

/-- The primary opcode of a mnemonic that takes an operand (30_encoding.md R74). -/
def primaryOpcode : List Char → Option Nibble
  | ['L', 'D', 'A'] => some 0x1
  | ['S', 'T', 'A'] => some 0x2
  | ['C', 'M', 'P'] => some 0x3
  | ['A', 'D', 'D'] => some 0x4
  | ['S', 'U', 'B'] => some 0x5
  | ['A', 'N', 'D'] => some 0x6
  | ['X', 'O', 'R'] => some 0x7
  | ['O', 'R'] => some 0x8
  | ['L', 'D', 'I'] => some 0xA
  | ['J', 'M', 'P'] => some 0xB
  | ['S', 'S', 'P'] => some 0xC
  | ['A', 'D', 'I'] => some 0xD
  | ['S', 'B', 'I'] => some 0xE
  | ['C', 'M', 'P', 'F'] => some 0xF
  | _ => none

/-- The two cells of a mnemonic without operand: the secondary ones of R75, and NOT, which yields 0x9, 0x0. -/
def plainCells : List Char → Option (List Nibble)
  | ['N', 'O', 'P'] => some [0x0, 0x0]
  | ['P', 'U', 'S', 'H'] => some [0x0, 0x1]
  | ['P', 'O', 'P'] => some [0x0, 0x2]
  | ['P', 'U', 'S', 'H', 'P', 'C'] => some [0x0, 0x3]
  | ['P', 'O', 'P', 'P', 'C'] => some [0x0, 0x4]
  | ['S', 'W', 'A', 'B'] => some [0x0, 0x5]
  | ['S', 'W', 'B', 'C'] => some [0x0, 0x6]
  | ['S', 'K', 'C'] => some [0x0, 0x7]
  | ['S', 'K', 'N'] => some [0x0, 0x8]
  | ['S', 'K', 'E'] => some [0x0, 0x9]
  | ['N', 'O', 'T'] => some [0x9, 0x0]
  | _ => none

/-- The address of a label, if the listing has it. -/
def labelAddr : Labels → List Char → Option Nat
  | [], _ => none
  | (n, x) :: ls, name => if n = name then some x else labelAddr ls name

/-- The offset that `JMP @label` takes: the label stands at `15 + V`, V 0 to 15 (R83). -/
def labelOffset (ls : Labels) (name : List Char) : Option Nibble :=
  match labelAddr ls name with
  | some x => if programOrigin ≤ x then nibbleOfNat (x - programOrigin) else none
  | none => none

/-- `MNEMONIC V` with a numeric operand; `INVSEC V` needs V 10 to 15 and yields 0x0, V (R83). -/
def operandCells (m : List Char) (v : Nibble) : Option (List Nibble) :=
  if m = ['I', 'N', 'V', 'S', 'E', 'C'] then (if 10 ≤ v.toNat then some [0x0, v] else none)
  else (primaryOpcode m).map (fun op => [op, v])

/-- The cells of one line, split into its words; a line with no word yields no cell. -/
def assembleWords (ls : Labels) : List (List Char) → Option (List Nibble)
  | [] => some []
  | [m] => plainCells m
  | [m, '@' :: name] =>
    if m = ['J', 'M', 'P'] then (labelOffset ls name).map (fun v => [0xB, v]) else none
  | [m, w] => (parseLine w).bind (operandCells m)
  | _ => none

/-- A blank between words. -/
def isBlank (c : Char) : Bool := c = ' ' || c = '\t'

/-- One character more in front of a list of words; a blank begins a new word. -/
def pushChar (c : Char) (ws : List (List Char)) : List (List Char) :=
  if isBlank c then [] :: ws
  else
    match ws with
    | [] => [[c]]
    | w :: r => (c :: w) :: r

/-- The words of a line. -/
def splitWords (cs : List Char) : List (List Char) := (cs.foldr pushChar []).filter (fun w => !w.isEmpty)

/-- One line of a listing, its comment dropped (R83). -/
def assembleLine (ls : Labels) (line : List Char) : Option (List Nibble) :=
  assembleWords ls (splitWords (line.takeWhile (fun c => c != ';')))

/-- A listing from line number `k`: its cells, or the first bad line. -/
def assembleFrom (ls : Labels) : Nat → List (List Char) → Except LoaderError (List Nibble)
  | _, [] => .ok []
  | k, l :: rest =>
    match assembleLine ls l, assembleFrom ls (k + 1) rest with
    | none, _ => .error (.malformedLine k)
    | some _, .error e => .error e
    | some vs, .ok more => .ok (vs ++ more)

/-- A whole listing (R83). -/
def assemble (ls : Labels) (lines : List (List Char)) : Except LoaderError (List Nibble) :=
  assembleFrom ls 0 lines

/-- The resting idiom `HALT@k`: the instruction `JMP k`, to stand at address 15 + k (R84). -/
def haltAt (k : Nibble) : Instr := .jmp k

end Sys2Proof.Machine
end

