-- ==== Sys2Proof/Tests/Slice0.lean ====
section
/-! SUPPORT. Tests on fixed values, and witnesses for the hypotheses of the statements. Expected values are those
of spec/95_test_vectors.md (the vector's id is in each name or comment) or worked by hand from the rule named. -/

namespace Sys2Proof.Tests

open Sys2Proof Sys2Proof.Machine

/-! ## Helpers -/

/-- A state as the vectors write it: `A B C SP F` at `PC = p`, with some cells written. -/
def base (cfg : Config) (p : Nat) (a b c : Nibble) (sp f : Nat) (cells : List (Nat × Nibble)) : State :=
  cells.foldl (fun s e => memWrite s e.1 e.2)
    { State.resetWith cfg with
      a := a, b := b, c := c, pc := p, sp := sp
      carry := f.testBit 0, negative := f.testBit 1, equal := f.testBit 2, error := f.testBit 3 }

/-- `base` in the reference configuration, all of B, C, SP zero, with a pair placed at PC. -/
def at32 (p : Nat) (a : Nibble) (f : Nat) (cells : List (Nat × Nibble)) (op v : Nibble) : State :=
  placePair (base Config.reference p a 0 0 0 f cells) op v

/-- `base` with a stack pointer, another boundary and a pair placed at PC. -/
def atSp (boundary p : Nat) (a : Nibble) (sp f : Nat) (cells : List (Nat × Nibble)) (op v : Nibble) : State :=
  placePair (base { addrWidth := 5, stackBoundary := boundary } p a 0 0 sp f cells) op v

/-- `A B C SP F / PC` of a next state, F as the nibble of 10_state.md R28. -/
def view : Host.Outcome State Fault Refusal → Option (List Nat)
  | .next t => some [t.a.toNat, t.b.toNat, t.c.toNat, t.sp, (flagNibble t).toNat, t.pc]
  | .fault _ => none
  | .refused _ => none

/-- A cell of a next state. -/
def cellOf (x : Nat) : Host.Outcome State Fault Refusal → Option Nibble
  | .next t => some (memRead t x)
  | .fault _ => none
  | .refused _ => none

/-- The diagnostics of a next state. -/
def diagsOf : Host.Outcome State Fault Refusal → Option (List Diagnostic)
  | .next t => some t.diags
  | .fault _ => none
  | .refused _ => none

/-- What stands in a next outcome. -/
def nextOf {α : Type} : Host.Outcome α Fault Refusal → Option α
  | .next t => some t
  | .fault _ => none
  | .refused _ => none

/-- The state in a next outcome, or the given one. -/
def stateOf (s : State) : Host.Outcome State Fault Refusal → State
  | .next t => t
  | .fault _ => s
  | .refused _ => s

/-- The instruction of an 8-bit instruction word (00_scope.md R14). -/
def word (w : Nat) : Option Instr := decodeTableWord 8 w

/-! ## Well-formedness -/

/-- The one check refuses INVSEC with an operand that is a secondary instruction (30_encoding.md R75, R77). -/
theorem test_wellFormed_refuses_invsec :
    (Instr.invsec 0).wellFormed = false ∧ (Instr.invsec 3).wellFormed = false ∧
    (Instr.invsec 9).wellFormed = false := by decide

theorem test_wellFormed_accepts :
    (Instr.invsec 10).wellFormed = true ∧ (Instr.invsec 15).wellFormed = true ∧
    (Instr.lda 15).wellFormed = true ∧ Instr.not.wellFormed = true := by decide

/-! ## Decoding: words written out bit by bit from the tables of 30_encoding.md R74 and R75 -/

theorem test_decode_primary_low :
    word 0b00010011 = some (.lda 3) ∧ word 0b00101111 = some (.sta 15) ∧ word 0b00110101 = some (.cmp 5) ∧
    word 0b01000010 = some (.add 2) ∧ word 0b01010001 = some (.sub 1) ∧ word 0b01101010 = some (.and 10) ∧
    word 0b01111001 = some (.xor 9) := by decide

theorem test_decode_primary_high :
    word 0b10001000 = some (.or 8) ∧ word 0b10010000 = some .not ∧ word 0b10100101 = some (.ldi 5) ∧
    word 0b10110100 = some (.jmp 4) ∧ word 0b11001110 = some (.ssp 14) ∧ word 0b11011111 = some (.adi 15) ∧
    word 0b11100111 = some (.sbi 7) ∧ word 0b11110110 = some (.cmpf 6) := by decide

theorem test_decode_secondary :
    word 0b00000000 = some .nop ∧ word 0b00000001 = some .push ∧ word 0b00000010 = some .pop ∧
    word 0b00000011 = some .pushpc ∧ word 0b00000100 = some .poppc ∧ word 0b00000101 = some .swab ∧
    word 0b00000110 = some .swbc ∧ word 0b00000111 = some .skc ∧ word 0b00001000 = some .skn ∧
    word 0b00001001 = some .ske := by decide

theorem test_decode_invalid_secondary :
    word 0b00001010 = some (.invsec 10) ∧ word 0b00001011 = some (.invsec 11) ∧
    word 0b00001100 = some (.invsec 12) ∧ word 0b00001101 = some (.invsec 13) ∧
    word 0b00001110 = some (.invsec 14) ∧ word 0b00001111 = some (.invsec 15) := by decide

/-- The operand cell of NOT is ignored (30_encoding.md R78). -/
theorem test_decode_not_ignores_operand : word 0x9F = some .not ∧ word 0x97 = some .not := by decide

/-- A list of fewer than two cells is rejected by name (30_encoding.md R70). -/
theorem test_decode_too_few :
    decode [] = .error .tooFewCells ∧ decode [0x1] = .error .tooFewCells := by decide

/-- The bits above `nbits` count as 0. -/
theorem test_decode_high_bits : decodeTableWord 8 0x1A5 = some (.ldi 5) := by decide

/-- R83's own examples: two cells in address order, NOT with a 0 operand. -/
theorem test_encode :
    encode (.ldi 5) = [0xA, 0x5] ∧ encode .not = [0x9, 0x0] ∧ encode .push = [0x0, 0x1] ∧
    encode (.invsec 12) = [0x0, 0xC] := by decide

/-! ## One step: load, store, swaps (95_test_vectors.md section 2.1) -/

theorem test_lda_LS3 : view (step (at32 15 7 15 [(0, 15)] 0x1 0x0)) = some [15, 0, 0, 0, 15, 17] := by decide
/-- LS2: V = 15 reads the pair's own opcode cell. -/
theorem test_lda_LS2 : view (step (at32 15 0 0 [] 0x1 0xF)) = some [1, 0, 0, 0, 0, 17] := by decide
theorem test_sta_LS6 : cellOf 0 (step (at32 15 7 0 [] 0x2 0x0)) = some 7 := by decide
/-- LS8: storing 0 over 10. -/
theorem test_sta_LS8 :
    view (step (at32 17 0 0 [(15, 10)] 0x2 0xF)) = some [0, 0, 0, 0, 0, 19] ∧
    cellOf 15 (step (at32 17 0 0 [(15, 10)] 0x2 0xF)) = some 0 := by decide
theorem test_ldi_LS12 : view (step (at32 15 3 0 [] 0xA 0xF)) = some [15, 0, 0, 0, 0, 17] := by decide
/-- LS14: the operand of the pair at 31 is M[0], PC wraps to 1. -/
theorem test_ldi_LS14 :
    view (step (base Config.reference 31 0 0 0 0 0 [(31, 0xA), (0, 6)])) = some [6, 0, 0, 0, 0, 1] := by decide
theorem test_swab_LS15 :
    view (step (placePair (base Config.reference 15 3 12 0 0 0 []) 0x0 0x5)) = some [12, 3, 0, 0, 0, 17] := by
  decide
theorem test_swbc_LS18 :
    view (step (placePair (base Config.reference 15 9 15 1 0 0 []) 0x0 0x6)) = some [9, 1, 15, 0, 0, 17] := by
  decide

/-! ## One step: compare (section 2.2) -/

theorem test_cmp_CM3 : view (step (at32 15 5 11 [] 0x3 0x5)) = some [5, 0, 0, 0, 15, 17] := by decide
theorem test_cmp_CM4 : view (step (at32 15 5 15 [] 0x3 0x4)) = some [5, 0, 0, 0, 11, 17] := by decide
theorem test_cmpf_CM7 :
    view (step (at32 15 5 11 [] 0xF 0x5)) = some [5, 0, 0, 0, 15, 17] ∧
    diagsOf (step (at32 15 5 11 [] 0xF 0x5)) = some [] := by decide
theorem test_cmpf_CM9 : view (step (at32 15 0 4 [] 0xF 0xF)) = some [0, 0, 0, 0, 0, 17] := by decide

/-! ## One step: add and subtract (section 2.3) -/

theorem test_add_AR7 : view (step (at32 15 7 2 [(2, 9)] 0x4 0x2)) = some [1, 0, 0, 0, 3, 17] := by decide
theorem test_add_AR6 : view (step (at32 15 7 0 [(2, 8)] 0x4 0x2)) = some [0, 0, 0, 0, 0, 17] := by decide
theorem test_adi_AR11 : view (step (at32 15 0 0 [] 0xD 0xF)) = some [0, 0, 0, 0, 0, 17] := by decide
theorem test_adi_AR16 : view (step (at32 15 15 0 [] 0xD 0xF)) = some [0, 0, 0, 0, 1, 17] := by decide
theorem test_sub_AR30 : view (step (at32 15 1 4 [] 0x5 0x2)) = some [14, 0, 0, 0, 7, 17] := by decide
theorem test_sub_AR24 : view (step (at32 15 0 0 [] 0x5 0xF)) = some [0, 0, 0, 0, 3, 17] := by decide
theorem test_sbi_AR36 : view (step (at32 15 3 8 [] 0xE 0x7)) = some [11, 0, 0, 0, 11, 17] := by decide
theorem test_sbi_AR35 : view (step (at32 15 15 0 [] 0xE 0x0)) = some [0, 0, 0, 0, 0, 17] := by decide

/-! ## One step: logic (section 2.4) -/

theorem test_and_LG1 : view (step (at32 15 12 0 [] 0x6 0xA)) = some [8, 0, 0, 0, 0, 17] := by decide
theorem test_xor_LG5 : view (step (at32 15 12 0 [] 0x7 0xA)) = some [6, 0, 0, 0, 0, 17] := by decide
theorem test_or_LG9 : view (step (at32 15 12 0 [] 0x8 0xA)) = some [14, 0, 0, 0, 0, 17] := by decide
theorem test_not_LG13 : view (step (at32 15 0 0 [] 0x9 0x0)) = some [15, 0, 0, 0, 0, 17] := by decide
theorem test_not_LG16 : view (step (at32 15 14 15 [] 0x9 0x7)) = some [1, 0, 0, 0, 15, 17] := by decide

/-! ## One step: control (section 2.5) -/

theorem test_jmp_CT6 :
    view (step (placePair (base Config.reference 3 7 1 2 3 15 []) 0xB 0x5)) = some [7, 1, 2, 3, 15, 20] := by
  decide
theorem test_jmp_CT2 : view (step (at32 15 0 0 [] 0xB 0xF)) = some [0, 0, 0, 0, 0, 30] := by decide
theorem test_nop_CT9 : view (step (at32 30 0 0 [] 0x0 0x0)) = some [0, 0, 0, 0, 0, 0] := by decide
theorem test_skc_CT19 : view (step (at32 29 0 1 [] 0x0 0x7)) = some [0, 0, 0, 0, 1, 1] := by decide
theorem test_skc_CT14 : view (step (at32 15 0 14 [] 0x0 0x7)) = some [0, 0, 0, 0, 14, 17] := by decide
theorem test_skn_CT15 : view (step (at32 21 0 2 [] 0x0 0x8)) = some [0, 0, 0, 0, 2, 25] := by decide
theorem test_skn_CT16 : view (step (at32 21 0 13 [] 0x0 0x8)) = some [0, 0, 0, 0, 13, 23] := by decide
theorem test_ske_CT17 : view (step (at32 15 0 4 [] 0x0 0x9)) = some [0, 0, 0, 0, 4, 19] := by decide
theorem test_ske_CT18 : view (step (at32 15 0 11 [] 0x0 0x9)) = some [0, 0, 0, 0, 11, 17] := by decide
theorem test_invsec_CT24 :
    view (step (at32 15 0 0 [] 0x0 0xA)) = some [0, 0, 0, 0, 0, 17] ∧
    diagsOf (step (at32 15 0 0 [] 0x0 0xA)) = some [.invalidSecondaryOperand 10] := by decide

/-! ## One step: the stack (section 2.6) -/

theorem test_ssp_SK4 : view (step (atSp 4 15 0 0 0 [] 0xC 0xF)) = some [0, 0, 0, 15, 0, 17] := by decide
theorem test_push_SK6 :
    view (step (atSp 15 15 9 14 0 [] 0x0 0x1)) = some [9, 0, 0, 15, 0, 17] ∧
    cellOf 14 (step (atSp 15 15 9 14 0 [] 0x0 0x1)) = some 9 := by decide
theorem test_push_SK11 :
    view (step (atSp 4 15 9 9 0 [] 0x0 0x1)) = some [9, 0, 0, 9, 8, 17] ∧
    cellOf 9 (step (atSp 4 15 9 9 0 [] 0x0 0x1)) = some 0 := by decide
theorem test_pop_SK18 : view (step (atSp 15 15 0 3 0 [(2, 9)] 0x0 0x2)) = some [9, 0, 0, 2, 0, 17] := by decide
theorem test_pop_SK19 : view (step (atSp 15 15 6 0 0 [] 0x0 0x2)) = some [6, 0, 0, 0, 8, 17] := by decide
theorem test_pushpc_SK24 :
    view (step (atSp 15 19 0 0 0 [] 0x0 0x3)) = some [0, 0, 0, 1, 0, 21] ∧
    cellOf 0 (step (atSp 15 19 0 0 0 [] 0x0 0x3)) = some 5 := by decide
theorem test_pushpc_SK32 : view (step (atSp 15 15 2 15 0 [] 0x0 0x3)) = some [2, 0, 0, 15, 8, 17] := by decide
theorem test_poppc_SK33 : view (step (atSp 15 15 0 1 0 [(0, 5)] 0x0 0x4)) = some [0, 0, 0, 0, 0, 5] := by decide
theorem test_poppc_SK34 : view (step (atSp 15 15 0 0 0 [] 0x0 0x4)) = some [0, 0, 0, 0, 8, 17] := by decide

/-! ## The other memory size (256 cells) and the step's normalisation of PC -/

/-- CT11: 255 wraps to 1. -/
theorem test_wrap_256 :
    view (step (base Config.large 255 0 0 0 0 0 [])) = some [0, 0, 0, 0, 0, 1] := by decide

/-- SK30: PUSHPC in the 256-cell configuration stores 102 mod 16. -/
theorem test_pushpc_256 :
    cellOf 0 (step (placePair (base Config.large 100 0 0 0 0 0 []) 0x0 0x3)) = some 6 := by decide

/-! ## Reset, load, the Loader, the driver and the ports (section 2.7) -/

theorem test_reset_values :
    view (.next State.reset) = some [0, 0, 0, 0, 0, 15] ∧ State.reset.haltReq = true ∧
    memRead State.reset 31 = 0 ∧ State.reset.cfg.memSize = 32 := by decide

theorem test_reset_HO1 :
    view (.next (hostReset (base Config.reference 4 7 3 9 6 15 [(0, 5), (15, 10), (31, 2)]))) =
      some [0, 0, 0, 0, 0, 15] ∧
    (hostReset (base Config.reference 4 7 3 9 6 15 [(0, 5), (15, 10), (31, 2)])).mem = [] := by decide

/-- A program text of four lines: X6's program in the two literal forms of R82. -/
theorem test_loader_text :
    parseLines ["0xA".toList, "5".toList, "0".toList, "0x1".toList] = .ok [0xA, 5, 0, 1] ∧
    parseLine "15".toList = some 15 ∧ parseLine "16".toList = none ∧ parseLine "0xG".toList = none ∧
    parseLine "".toList = none := by decide

/-- R83: the listing of P6 (section 3.6), with a comment and a label, gives that program's ten cells. -/
theorem test_assemble_P6 :
    assemble [("end".toList, 23)]
      ["SSP 14".toList, "PUSHPC ; low four bits".toList, "  PUSHPC".toList, "POP".toList, "".toList,
        "JMP @end".toList] = .ok [0xC, 0xE, 0x0, 0x3, 0x0, 0x3, 0x0, 0x2, 0xB, 0x8] := by decide

/-- R83: NOT yields 0x9, 0x0, INVSEC needs 10 to 15, a label must stand at 15 to 30. -/
theorem test_assemble_forms :
    assembleLine [] "NOT".toList = some [0x9, 0x0] ∧ assembleLine [] "INVSEC 0xC".toList = some [0x0, 0xC] ∧
    assembleLine [] "INVSEC 9".toList = none ∧ assembleLine [] "LDA 16".toList = none ∧
    assembleLine [("low".toList, 14)] "JMP @low".toList = none := by decide

theorem test_loader_values :
    checkValues [0, 15] = .ok [0, 15] ∧ checkValues [3, 16, 17] = .error (.valueOutOfRange 1) := by decide

/-- HO2, HO8 and HO9: cells from 15 upward, a shorter second load leaves the tail, nothing else changes. -/
theorem test_load_HO9 :
    load [0x0, 0x2] (base Config.reference 21 6 0 0 3 8 []) =
      .loaded (base Config.reference 21 6 0 0 3 8 [(15, 0), (16, 2)]) := by decide

theorem test_load_HO8 :
    nextOf (hostMove (.load [0xA]) (base Config.reference 15 0 0 0 0 0 [(15, 0xB), (16, 0)])) =
      some (base Config.reference 15 0 0 0 0 0 [(15, 0xA), (16, 0)], .nothing) := by decide

/-- HO5: one cell over the capacity of 17. -/
theorem test_load_HO5 : load (List.replicate 18 1) State.reset = .capacityExceeded := by decide

/-- HO10: step() does not look at HALTREQ and does not clear it. -/
theorem test_step_HO10 : nextOf (step State.reset) = some { State.reset with pc := 17 } := by decide

/-- R173: the driver makes no step after reset, and steps once `run` has cleared HALTREQ. -/
theorem test_drive :
    nextOf (drive 1 State.reset) = some State.reset ∧
    nextOf (drive 1 (hostRun State.reset)) = some { State.reset with pc := 17, haltReq := false } := by decide

/-- R176: `rst` over `ld_we` over `step_en`. -/
theorem test_ports_priority :
    nextOf (clockEdge { PortIn.idle with rst := true, ldWe := true, stepEn := true }
      (base Config.reference 4 7 3 9 6 15 [(0, 5)])) = some State.reset ∧
    nextOf (clockEdge { PortIn.idle with ldWe := true, ldAddr := 20, ldData := 7, stepEn := true } State.reset) =
      some (base Config.reference 15 0 0 0 0 0 [(20, 7)]) := by decide

/-- R176: `diag_valid` pulses with the operand in the clock of an INVSEC step. -/
theorem test_ports_diag :
    (portOut 0 PortIn.idle (at32 15 0 0 [] 0x0 0xC)
      (stateOf State.reset (step (at32 15 0 0 [] 0x0 0xC)))).diagValid = true ∧
    (portOut 0 PortIn.idle (at32 15 0 0 [] 0x0 0xC)
      (stateOf State.reset (step (at32 15 0 0 [] 0x0 0xC)))).diagV = 12 := by decide

/-- R176: with no diagnostic `diag_valid` is 0, and the read port shows the cell addressed. -/
theorem test_ports_no_diag :
    (portOut 1 { PortIn.idle with dbgAddr := 16 } State.reset (at32 17 5 8 [(16, 9)] 0 0)).diagValid = false ∧
    (portOut 1 { PortIn.idle with dbgAddr := 16 } State.reset (at32 17 5 8 [(16, 9)] 0 0)).dbgData = 9 := by decide

/-- The host's view of a table word: the word placed at PC is what the next step runs. -/
theorem test_withFetchWord :
    nextOf (step (State.reset.withFetchWord 8 0xA5)) =
      some { State.reset.withFetchWord 8 0xA5 with a := 5, pc := 17 } := by decide

/-! ## Memory operations -/

/-- Writing 0 removes the entry; a write past the top wraps (20_memory.md R53). -/
theorem test_memory_canonical :
    (memWrite (memWrite State.reset 3 9) 3 0).mem = [] ∧
    (memWrite (memWrite State.reset 35 9) 1 4).mem = [(1, 4), (3, 9)] := by decide

/-! ## Witnesses: the hypotheses of each statement are met, at the boundary values of its clauses -/

theorem witness_valid : Config.reference.Valid ∧ Config.large.Valid ∧
    Config.Valid { addrWidth := 5, stackBoundary := 1 } ∧
    Config.Valid { addrWidth := 5, stackBoundary := 31 } := by decide

/-- The parameters' constraints exclude something. -/
theorem witness_not_valid : ¬ Config.Valid { addrWidth := 4, stackBoundary := 15 } ∧
    ¬ Config.Valid { addrWidth := 5, stackBoundary := 0 } ∧
    ¬ Config.Valid { addrWidth := 5, stackBoundary := 32 } := by decide

theorem witness_inv_reset : State.reset.Inv := by constructor <;> decide

/-- A state with memory listed, SP at the boundary and PC at the last cell. -/
theorem witness_inv_boundary :
    (base Config.reference 31 5 0 0 15 8 [(31, 0xA), (0, 6)]).Inv := by constructor <;> decide

theorem witness_StepKeepsInv :
    nextOf (step (base Config.reference 31 5 0 0 15 8 [(31, 0xA), (0, 6)])) =
      some { base Config.reference 31 5 0 0 15 8 [(31, 0xA), (0, 6)] with a := 6, pc := 1 } := by decide

theorem witness_HostMovesKeepInv :
    nextOf (hostMove (.load [1, 2]) State.reset) =
      some (base Config.reference 15 0 0 0 0 0 [(15, 1), (16, 2)], .nothing) := by decide

theorem witness_DecodeOfEncode :
    (Instr.invsec 10).wellFormed = true ∧ decode (encode (.invsec 10) ++ [7]) = .ok (.invsec 10, [7]) := by decide

/-- Both clauses: an instruction that is not NOT, and NOT with an operand encode does not give. -/
theorem witness_DecodedCellsReencode :
    decode [0x1, 0x3, 0x4] = .ok (.lda 3, [0x4]) ∧ decode [0x9, 0x7] = .ok (.not, []) := by decide

/-- Operand 9 is on the other side of the range. -/
theorem witness_OnlySixInvalidWords :
    decode [0x0, 10, 3] = .ok (.invsec 10, [3]) ∧ decode [0x0, 9] = .ok (.ske, []) := by decide

theorem witness_TwoCellsAlwaysDecode :
    decode [0x0, 0x0] = .ok (.nop, []) ∧ decode [0x0] = .error .tooFewCells := by decide

theorem witness_StepRunsDecoded :
    decode [memRead (at32 15 0 0 [] 0xA 0x5) 15, memRead (at32 15 0 0 [] 0xA 0x5) 16] = .ok (.ldi 5, []) := by
  decide

theorem witness_LastCellOperandWraps :
    (base Config.reference 31 0 0 0 0 0 [(31, 0xA), (0, 6)]).pc = Config.reference.memSize - 1 ∧
    (fetch (base Config.reference 31 0 0 0 0 0 [(31, 0xA), (0, 6)])).v = 6 := by decide

/-- Each branch: a store to the opcode cell, to the operand cell, and to neither. -/
theorem witness_StoreSeenByNextFetch :
    (fetch (memWrite State.reset 15 7)).op = 7 ∧ (fetch (memWrite State.reset 16 7)).v = 7 ∧
    (fetch (memWrite State.reset 17 7)).op = 0 ∧ (fetch (memWrite State.reset 17 7)).v = 0 := by decide

/-- The stored cell and one beside it. -/
theorem witness_StaStoresA :
    nextOf (exec (.sta 15) (at32 17 10 0 [(14, 3)] 0x0 0x0)) =
      some (base Config.reference 17 10 0 0 0 0 [(14, 3), (15, 10)]) ∧
    (14 : Nat) % Config.reference.memSize ≠ 15 % Config.reference.memSize := by decide

theorem witness_SwapsExchange :
    nextOf (exec .swab (base Config.reference 15 3 12 9 0 0 [])) = some (base Config.reference 15 12 3 9 0 0 []) ∧
    nextOf (exec .swbc (base Config.reference 15 3 12 9 0 0 [])) = some (base Config.reference 15 3 9 12 0 0 []) := by
  decide

theorem witness_CmpAssignsEqual :
    (base Config.reference 15 15 0 0 0 0 []).a = 15 ∧ (base Config.reference 15 15 0 0 0 0 []).a ≠ 0 := by decide

theorem witness_NotComplements :
    nextOf (exec .not (base Config.reference 15 0 0 0 0 0 [])) = some (base Config.reference 15 15 0 0 0 0 []) := by
  decide

theorem witness_NopOnlyAdvances :
    memRead State.reset State.reset.pc = 0 ∧ memRead State.reset (State.reset.pc + 1) = 0 := by decide

/-- Each skip, standing where its taken skip wraps. -/
theorem witness_SkipsTestOneFlag :
    memRead (at32 29 0 1 [] 0x0 0x7) 29 = 0 ∧ memRead (at32 29 0 1 [] 0x0 0x7) 30 = 7 ∧
    (at32 29 0 1 [] 0x0 0x7).carry = true ∧
    memRead (at32 29 0 2 [] 0x0 0x8) 30 = 8 ∧ (at32 29 0 2 [] 0x0 0x8).negative = true ∧
    memRead (at32 29 0 3 [] 0x0 0x9) 30 = 9 ∧ (at32 29 0 3 [] 0x0 0x9).equal = false := by decide

theorem witness_InvsecOnlyDiagnoses : decodePair 0x0 10 = .invsec 10 ∧ 10 ≤ (10 : Nibble).toNat := by decide

/-- At the boundary, above it, and one below it. -/
theorem witness_PushResult :
    nextOf (exec .push (atSp 4 15 9 4 0 [] 0x0 0x0)) = some (atSp 4 15 9 4 8 [] 0x0 0x0) ∧
    nextOf (exec .push (atSp 4 15 9 9 0 [] 0x0 0x0)) = some (atSp 4 15 9 9 8 [] 0x0 0x0) ∧
    nextOf (exec .push (atSp 4 15 9 3 0 [] 0x0 0x0)) = some (atSp 4 15 9 4 0 [(3, 9)] 0x0 0x0) := by decide

/-- SP 0 and SP 1. -/
theorem witness_PopResult :
    nextOf (exec .pop (atSp 4 15 9 0 0 [] 0x0 0x0)) = some (atSp 4 15 9 0 8 [] 0x0 0x0) ∧
    nextOf (exec .pop (atSp 4 15 9 1 0 [(0, 3)] 0x0 0x0)) = some (atSp 4 15 3 0 0 [(0, 3)] 0x0 0x0) := by decide

theorem witness_PushpcResult :
    nextOf (exec .pushpc (atSp 4 17 9 4 0 [] 0x0 0x0)) = some (atSp 4 17 9 4 8 [] 0x0 0x0) ∧
    nextOf (exec .pushpc (atSp 4 17 9 3 0 [] 0x0 0x0)) = some (atSp 4 17 9 4 0 [(3, 1)] 0x0 0x0) := by decide

theorem witness_PoppcResult :
    view (exec .poppc (atSp 4 17 9 0 0 [] 0x0 0x0)) = some [9, 0, 0, 0, 8, 17] ∧
    view (exec .poppc (atSp 4 17 9 1 0 [(0, 15)] 0x0 0x0)) = some [9, 0, 0, 0, 0, 15] := by decide

/-- ADI at each end of each range of the table: sums 14, 15, 16, 29, 30. -/
theorem witness_ArithmeticTables_add :
    view (exec (.adi 0) (at32 15 14 0 [] 0 0)) = some [14, 0, 0, 0, 0, 15] ∧
    view (exec (.adi 1) (at32 15 14 0 [] 0 0)) = some [0, 0, 0, 0, 0, 15] ∧
    view (exec (.adi 2) (at32 15 14 0 [] 0 0)) = some [1, 0, 0, 0, 1, 15] ∧
    view (exec (.adi 15) (at32 15 14 0 [] 0 0)) = some [14, 0, 0, 0, 1, 15] ∧
    view (exec (.adi 15) (at32 15 15 0 [] 0 0)) = some [0, 0, 0, 0, 1, 15] := by decide

/-- SBI likewise: differences 15, 14, 0, -1, -14, -15. -/
theorem witness_ArithmeticTables_sub :
    view (exec (.sbi 0) (at32 15 15 0 [] 0 0)) = some [0, 0, 0, 0, 0, 15] ∧
    view (exec (.sbi 0) (at32 15 14 0 [] 0 0)) = some [14, 0, 0, 0, 0, 15] ∧
    view (exec (.sbi 14) (at32 15 14 0 [] 0 0)) = some [0, 0, 0, 0, 0, 15] ∧
    view (exec (.sbi 15) (at32 15 14 0 [] 0 0)) = some [14, 0, 0, 0, 3, 15] ∧
    view (exec (.sbi 14) (at32 15 0 0 [] 0 0)) = some [1, 0, 0, 0, 3, 15] ∧
    view (exec (.sbi 15) (at32 15 0 0 [] 0 0)) = some [0, 0, 0, 0, 3, 15] := by decide

/-- The other form of each: ADD of a cell, SUB of an immediate, at the ends of the carry ranges. -/
theorem witness_ArithmeticTables_forms :
    memRead (at32 15 14 0 [(2, 1)] 0 0) (2 : Nibble).toNat = 1 ∧
    view (exec (.add 2) (at32 15 14 0 [(2, 1)] 0 0)) = some [0, 0, 0, 0, 0, 15] ∧
    view (exec (.add 2) (at32 15 14 0 [(2, 2)] 0 0)) = some [1, 0, 0, 0, 1, 15] ∧
    view (exec (.sub 14) (at32 15 14 0 [] 0 0)) = some [0, 0, 0, 0, 0, 15] ∧
    view (exec (.sub 15) (at32 15 14 0 [] 0 0)) = some [14, 0, 0, 0, 3, 15] := by decide

/-- Each of the four instructions answers a next state, and POP can meet a cell that holds 15. -/
theorem witness_TruncationLaw :
    view (exec (.add 2) (at32 15 7 0 [(2, 8)] 0 0)) = some [0, 0, 0, 0, 0, 15] ∧
    view (exec (.sub 5) (at32 15 3 0 [] 0 0)) = some [13, 0, 0, 0, 3, 15] ∧
    0 < (atSp 15 15 0 1 0 [(0, 15)] 0 0).sp ∧ memRead (atSp 15 15 0 1 0 [(0, 15)] 0 0) 0 = 15 := by decide

/-- A = 14 is in the range, and A = 15 really is outside the law: 15 + 0 - 0 gives 0. -/
theorem witness_AddThenSubtractRestores :
    view (exec (.sbi 15) (stateOf State.reset (exec (.adi 15) (at32 15 14 0 [] 0 0)))) =
      some [14, 0, 0, 0, 3, 15] ∧
    view (exec (.sbi 0) (stateOf State.reset (exec (.adi 0) (at32 15 15 0 [] 0 0)))) =
      some [0, 0, 0, 0, 0, 15] := by decide

theorem witness_PushThenPopRestores :
    (atSp 15 15 9 14 0 [] 0 0).sp < (atSp 15 15 9 14 0 [] 0 0).cfg.stackBoundary ∧
    view (exec .pop (stateOf State.reset (exec .push (atSp 15 15 9 14 0 [] 0 0)))) =
      some [9, 0, 0, 14, 0, 15] := by decide

/-- The frames' one common hypothesis, for an instruction outside each of the lists. -/
theorem witness_RegisterFrame :
    nextOf (exec .nop State.reset) = some State.reset ∧ Written.regA ∉ writes .nop ∧ Written.regB ∉ writes .nop ∧
    Written.regC ∉ writes .nop ∧ Written.sp ∉ writes .nop := by decide

theorem witness_FlagFrame_lists :
    nextOf (exec .nop State.reset) = some State.reset ∧ Written.carry ∉ writes .nop ∧
    Written.negative ∉ writes .nop ∧ Written.equal ∉ writes .nop ∧ Written.error ∉ writes .nop := by decide

/-- F.Error: a push one below the boundary, a pop at SP 1, a state that has it set. -/
theorem witness_FlagFrame_error :
    view (exec .push (atSp 15 15 9 14 0 [] 0 0)) = some [9, 0, 0, 15, 0, 15] ∧
    view (exec .pop (atSp 15 15 9 1 8 [] 0 0)) = some [0, 0, 0, 0, 8, 15] ∧
    (atSp 15 15 9 1 8 [] 0 0).error = true := by decide

/-- A skip not taken and a POPPC that pops nothing leave PC. -/
theorem witness_PcFrame :
    transfers .skc (at32 15 0 14 [] 0 0) = false ∧ transfers .poppc (at32 15 0 0 [] 0 0) = false ∧
    view (exec .skc (at32 15 0 14 [] 0 0)) = some [0, 0, 0, 0, 14, 15] := by decide

theorem witness_OutsideFrame :
    nextOf (exec (.jmp 0) State.reset) = some State.reset ∧
    diagsOf (exec (.invsec 10) State.reset) = some [.invalidSecondaryOperand 10] := by decide

/-- Both clauses: a store at the last legal stack slot, and a refused push that stores nothing. -/
theorem witness_MemoryFrame :
    storeTarget .push (atSp 15 15 9 14 0 [] 0 0) = some 14 ∧
    storeTarget .push (atSp 15 15 9 15 0 [] 0 0) = none ∧
    storeTarget (.sta 15) State.reset = some 15 ∧
    view (exec .push (atSp 15 15 9 15 0 [] 0 0)) = some [9, 0, 0, 15, 8, 15] := by decide

theorem witness_BAndCOnlyThroughSwaps : Instr.push ≠ .swab ∧ Instr.push ≠ .swbc := by decide

/-- Both outcomes: no diagnostic, and the one of an invalid secondary encoding. -/
theorem witness_AtMostOneDiagnostic :
    diagsOf (step State.reset) = some [] ∧
    diagsOf (step (at32 15 0 0 [] 0x0 0xF)) = some [.invalidSecondaryOperand 15] := by decide

theorem witness_StackErrorStaysAndStopsNothing :
    (at32 15 5 8 [] 0xA 0x3).error = true ∧
    view (step (at32 15 5 8 [] 0xA 0x3)) = some [3, 0, 0, 0, 8, 17] := by decide

/-- reset clears F.Error, a step and a load do not. -/
theorem witness_OnlyResetClearsError :
    (at32 15 5 8 [] 0x0 0x0).error = true ∧
    nextOf (hostMove .reset (at32 15 5 8 [] 0x0 0x0)) = some (State.reset, .nothing) ∧
    nextOf (hostMove .step (at32 15 5 8 [] 0x0 0x0)) = some (at32 17 5 8 [] 0x0 0x0, .nothing) := by decide

/-- Two NOPs, the first wrapping PC: none of the steps transfers. -/
theorem witness_SequentialRun :
    (at32 31 0 0 [] 0 0).pc < (at32 31 0 0 [] 0 0).cfg.memSize ∧
    transfers (nextInstr (at32 31 0 0 [] 0 0)) (at32 31 0 0 [] 0 0) = false ∧
    nextOf (step (at32 31 0 0 [] 0 0)) = some (at32 1 0 0 [] 0 0) ∧
    transfers (nextInstr (at32 1 0 0 [] 0 0)) (at32 1 0 0 [] 0 0) = false := by decide

/-- A taken skip that wraps keeps the parity of PC. -/
theorem witness_ParityKept :
    (∀ v, nextInstr (at32 29 0 1 [] 0x0 0x7) ≠ .jmp v) ∧ nextInstr (at32 29 0 1 [] 0x0 0x7) ≠ .poppc ∧
    view (step (at32 29 0 1 [] 0x0 0x7)) = some [0, 0, 0, 0, 1, 1] := by decide

/-- Both ends of JMP's reach, and both of POPPC's. -/
theorem witness_ReachOfJumps :
    view (step (at32 3 0 0 [] 0xB 0x0)) = some [0, 0, 0, 0, 0, 15] ∧
    view (step (at32 3 0 0 [] 0xB 0xF)) = some [0, 0, 0, 0, 0, 30] ∧
    view (step (atSp 15 15 0 1 0 [(0, 0)] 0x0 0x4)) = some [0, 0, 0, 0, 0, 0] ∧
    view (step (atSp 15 15 0 1 0 [(0, 15)] 0x0 0x4)) = some [0, 0, 0, 0, 0, 15] := by decide

/-- JMP 0 at 15 and JMP 15 at 30. -/
theorem witness_RestingJumpRests :
    memRead (at32 15 0 0 [] 0xB 0x0) 15 = 0xB ∧ memRead (at32 15 0 0 [] 0xB 0x0) 16 = 0 ∧
    memRead (at32 30 0 0 [] 0xB 0xF) 30 = 0xB ∧ memRead (at32 30 0 0 [] 0xB 0xF) 31 = 0xF ∧
    nextOf (step (at32 30 0 0 [] 0xB 0xF)) = some (at32 30 0 0 [] 0xB 0xF) := by decide

theorem witness_CanonicalMemoryIsItsContents :
    Memory.wf [(3, 9), (15, 1)] ∧ ¬ Memory.wf [(15, 1), (3, 9)] ∧ ¬ Memory.wf [(3, 0)] ∧
    Memory.wf (at32 15 0 0 [(3, 9)] 0xB 0x1).mem := by decide

/-- HO4 and HO5: 17 cells fit in 32, 18 do not, and the 17th goes to the last cell. -/
theorem witness_LoadWritesProgram :
    (List.replicate 17 (1 : Nibble)).length ≤ Config.reference.memSize - 15 ∧
    Config.reference.memSize - 15 < (List.replicate 18 (1 : Nibble)).length ∧
    (writeCells (List.replicate 17 1) 15 State.reset).mem.length = 17 ∧
    memRead (writeCells (List.replicate 17 1) 15 State.reset) 31 = 1 ∧
    memRead (writeCells (List.replicate 17 1) 15 State.reset) 14 = 0 := by decide

theorem witness_FirstPairRunsFirst :
    load [0xA, 0x5] (State.resetWith Config.reference) = .loaded (at32 15 0 0 [] 0xA 0x5) := by decide

theorem witness_LoaderAcceptsNibblesOnly :
    (∃ n ∈ [15, 16], 16 ≤ n) ∧ checkValues [15, 16] = .error (.valueOutOfRange 1) ∧
    checkValues [15] = .ok [15] := by decide

/-- The three clauses: reset, step, hold. -/
theorem witness_PortsResetAndStep :
    nextOf (clockEdge { PortIn.idle with rst := true } (at32 17 5 8 [] 0xA 0x3)) = some State.reset ∧
    nextOf (clockEdge { PortIn.idle with stepEn := true } State.reset) = some { State.reset with pc := 17 } ∧
    nextOf (clockEdge PortIn.idle (at32 17 5 8 [] 0xA 0x3)) = some (at32 17 5 8 [] 0xA 0x3) := by decide

theorem witness_PortLoadRefinesLoad :
    load [0xA, 0x5] State.reset = .loaded (at32 15 0 0 [] 0xA 0x5) ∧
    (loadPulses [0xA, 0x5] 15).length = 2 := by decide

end Sys2Proof.Tests
end

section
/-! Load, store, immediate load and register swaps (41_load_store_swap.md): what `exec` answers for each, in
terms of the state's fields and of `memRead` and `memWrite`, and the obligations O9 to O12 from that. -/

namespace Sys2Proof.Machine

/-! A memory write changes one cell of the memory and no other field (00_scope.md R12). -/

theorem memWrite_eq (s : State) (x : Nat) (v : Nibble) :
    memWrite s x v = { s with mem := (memWrite s x v).mem } := rfl

theorem memRead_memWrite_same (s : State) (x : Nat) (v : Nibble) : memRead (memWrite s x v) x = v := by
  rw [memRead_memWrite, if_pos rfl]

theorem memRead_memWrite_of_ne {s : State} {x y : Nat} (v : Nibble)
    (h : y % s.cfg.memSize ≠ x % s.cfg.memSize) : memRead (memWrite s x v) y = memRead s y := by
  rw [memRead_memWrite, if_neg h]

/-! What each instruction of the family does (R100 to R104). -/

@[simp] theorem exec_lda (v : Nibble) (s : State) :
    exec (.lda v) s = .next { s with a := memRead s v.toNat } := rfl

@[simp] theorem exec_sta (v : Nibble) (s : State) :
    exec (.sta v) s = .next (memWrite s v.toNat s.a) := rfl

@[simp] theorem exec_ldi (v : Nibble) (s : State) : exec (.ldi v) s = .next { s with a := v } := rfl

@[simp] theorem exec_swab (s : State) : exec .swab s = .next { s with a := s.b, b := s.a } := rfl

@[simp] theorem exec_swbc (s : State) : exec .swbc s = .next { s with b := s.c, c := s.b } := rfl

/-- A second SWAB undoes the first (R103). -/
theorem exec_swab_undoes {s t : State} (h : exec .swab s = .next t) : exec .swab t = .next s := by
  rw [exec_swab] at h
  obtain rfl := Host.Outcome.next.inj h
  exact exec_swab _

/-- A second SWBC undoes the first (R104). -/
theorem exec_swbc_undoes {s t : State} (h : exec .swbc s = .next t) : exec .swbc t = .next s := by
  rw [exec_swbc] at h
  obtain rfl := Host.Outcome.next.inj h
  exact exec_swbc _

/-! The words of the family (30_encoding.md R74, R75). -/

theorem decodePair_lda (v : Nibble) : decodePair 0x1 v = .lda v := rfl
theorem decodePair_sta (v : Nibble) : decodePair 0x2 v = .sta v := rfl
theorem decodePair_ldi (v : Nibble) : decodePair 0xA v = .ldi v := rfl
theorem decodePair_swab : decodePair 0x0 0x5 = .swab := rfl
theorem decodePair_swbc : decodePair 0x0 0x6 = .swbc := rfl

/-! The obligations. -/

/-- Settles O9. -/
theorem ldaLoadsCell : Obligations.LdaLoadsCell :=
  fun v s => ⟨decodePair_lda v, exec_lda v s⟩

/-- Settles O10: STA is one memory write, so the rules of `memWrite` say what it changes and what it leaves. -/
theorem staStoresA : Obligations.StaStoresA := by
  intro v s
  exact ⟨decodePair_sta v, memWrite s v.toNat s.a, exec_sta v s, memWrite_eq s v.toNat s.a,
    memRead_memWrite_same s v.toNat s.a, fun _ hx => memRead_memWrite_of_ne s.a hx⟩

/-- Settles O11. -/
theorem ldiLoadsImmediate : Obligations.LdiLoadsImmediate :=
  fun v s => ⟨decodePair_ldi v, exec_ldi v s⟩

/-- Settles O12. -/
theorem swapsExchange : Obligations.SwapsExchange :=
  ⟨decodePair_swab, decodePair_swbc, fun s =>
    ⟨exec_swab s, exec_swbc s, fun _ => exec_swab_undoes, fun _ => exec_swbc_undoes⟩⟩

end Sys2Proof.Machine
end

section
/-! Compare (42_compare.md): what `exec` answers for CMP, in terms of `equalOf`, and O13 from the two values of
`equalOf`. -/

namespace Sys2Proof.Machine

/-! The two values of the compare flag (R110). -/

@[simp] theorem equalOf_self (x : Nibble) : equalOf x x = true := decide_eq_true rfl

theorem equalOf_of_ne {x y : Nibble} (h : x ≠ y) : equalOf x y = false := decide_eq_false h

/-- CMP assigns F.Equal and leaves every other field (R110). -/
@[simp] theorem exec_cmp (v : Nibble) (s : State) :
    exec (.cmp v) s = .next { s with equal := equalOf s.a v } :=
  congrArg Host.Outcome.next (compareA_eq v s)

/-- The words 0x30 to 0x3F (30_encoding.md R74). -/
theorem decodePair_cmp (v : Nibble) : decodePair 0x3 v = .cmp v := rfl

/-- Settles O13: CMP assigns `equalOf s.a v`, which is 1 when the nibbles are identical and 0 when they differ. -/
theorem cmpAssignsEqual : Obligations.CmpAssignsEqual := by
  intro v s
  refine ⟨decodePair_cmp v, fun heq => ?_, fun hne => ?_⟩
  · rw [exec_cmp, heq, equalOf_self]
  · rw [exec_cmp, equalOf_of_ne hne]

end Sys2Proof.Machine
end

section
/-! Add (43_arithmetic.md R116, R118): the wide sum as a natural number, what `exec` answers for ADD and ADI from
that, and O15. -/

namespace Sys2Proof.Machine

/-! The wide sum of two nibbles is the natural number `A + x`, so its truncation and its carry are too. -/

theorem wideSum_eq_natCast (x y : Nibble) : wideSum x y = ((x.toNat + y.toNat : Nat) : Int) :=
  (Int.natCast_add x.toNat y.toNat).symm

theorem trunc15_wideSum (x y : Nibble) :
    trunc15 (wideSum x y) = BitVec.ofNat 4 ((x.toNat + y.toNat) % 15) := by
  rw [wideSum_eq_natCast, trunc15_natCast]

theorem carryOfSum_natCast (n : Nat) : carryOfSum (n : Int) = decide (15 < n) :=
  decide_eq_decide.mpr Int.ofNat_lt

theorem carryOfSum_wideSum (x y : Nibble) :
    carryOfSum (wideSum x y) = decide (15 < x.toNat + y.toNat) := by
  rw [wideSum_eq_natCast, carryOfSum_natCast]

/-- `addToA_eq` with both values in natural numbers. -/
theorem addToA_eq_toNat (x : Nibble) (s : State) :
    addToA x s = { s with
      a := BitVec.ofNat 4 ((s.a.toNat + x.toNat) % 15)
      carry := decide (15 < s.a.toNat + x.toNat) } := by
  rw [addToA_eq, trunc15_wideSum, carryOfSum_wideSum]

/-! ADD adds the cell M[V], ADI the immediate V: the same add of another addend. -/

@[simp] theorem exec_add (v : Nibble) (s : State) :
    exec (.add v) s = .next (addToA (memRead s v.toNat) s) := rfl

@[simp] theorem exec_adi (v : Nibble) (s : State) : exec (.adi v) s = .next (addToA v s) := rfl

/-! The words 0x40 to 0x4F and 0xD0 to 0xDF (30_encoding.md R74). -/

theorem decodePair_add (v : Nibble) : decodePair 0x4 v = .add v := rfl
theorem decodePair_adi (v : Nibble) : decodePair 0xD v = .adi v := rfl

/-- Settles O15: both instructions are `addToA`, whose two values are those of the natural-number sum. -/
theorem addAndAdiResult : Obligations.AddAndAdiResult := by
  intro v s
  refine ⟨decodePair_add v, decodePair_adi v, ?_, ?_⟩
  · rw [exec_add, addToA_eq_toNat]
  · rw [exec_adi, addToA_eq_toNat]

end Sys2Proof.Machine
end

section
/-! Bitwise logic (44_logic.md R125 to R127): what `exec` answers for AND, XOR and OR, and O17 from the bits of
`&&&`, `^^^` and `|||`. -/

namespace Sys2Proof.Machine

/-! Each instruction assigns A one bitwise combination of A and V, and leaves every other field. -/

@[simp] theorem exec_and (v : Nibble) (s : State) : exec (.and v) s = .next { s with a := s.a &&& v } := rfl

@[simp] theorem exec_xor (v : Nibble) (s : State) : exec (.xor v) s = .next { s with a := s.a ^^^ v } := rfl

@[simp] theorem exec_or (v : Nibble) (s : State) : exec (.or v) s = .next { s with a := s.a ||| v } := rfl

/-! The words 0x60 to 0x8F (30_encoding.md R74). -/

theorem decodePair_and (v : Nibble) : decodePair 0x6 v = .and v := rfl
theorem decodePair_xor (v : Nibble) : decodePair 0x7 v = .xor v := rfl
theorem decodePair_or (v : Nibble) : decodePair 0x8 v = .or v := rfl

/-- Settles O17: the next state is the old one with a new A, whose bits are those of the bitwise operation. -/
theorem logicBitByBit : Obligations.LogicBitByBit := by
  intro v s
  refine ⟨decodePair_and v, decodePair_xor v, decodePair_or v,
    ⟨_, exec_and v s, rfl, fun k _ => ?_⟩, ⟨_, exec_xor v s, rfl, fun k _ => ?_⟩,
    ⟨_, exec_or v s, rfl, fun k _ => ?_⟩⟩
  · exact BitVec.getLsbD_and
  · exact BitVec.getLsbD_xor
  · exact BitVec.getLsbD_or

end Sys2Proof.Machine
end

section
/-! No-operation and skips (45_control.md R136 to R140): a step in terms of the pair at PC (40_step_cycle.md R90
to R93), what a skip does before and after the fetch's PC advance, and the obligations O20 and O21 from that. -/

namespace Sys2Proof.Machine

/-! The fetch reduces each address itself, so a step is `exec` of the pair at PC whether PC is reduced or not. -/

theorem fetch_normalisePc (s : State) : fetch (normalisePc s) = fetch s := by
  simp [fetch_eq, normalisePc, State.setPc, memRead, addrPlus]

theorem step_eq_exec_decodePair (s : State) :
    step s = exec (decodePair (memRead s s.pc) (memRead s (s.pc + 1)))
      { s with pc := (s.pc + 2) % s.cfg.memSize } := by
  rw [step, fetch_normalisePc, fetch_eq]
  rfl

theorem step_of_pair {s : State} {op v : Nibble} (hop : memRead s s.pc = op)
    (hv : memRead s (s.pc + 1) = v) :
    step s = exec (decodePair op v) { s with pc := (s.pc + 2) % s.cfg.memSize } := by
  rw [step_eq_exec_decodePair, hop, hv]

/-! A skip changes PC alone (R137). -/

theorem skipIf_eq (flag : Bool) (s : State) :
    skipIf flag s = { s with pc := if flag then (s.pc + 2) % s.cfg.memSize else s.pc } := by
  obtain ⟨rfl, hs⟩ | ⟨rfl, hs⟩ := skipIf_cases flag s
  · exact hs
  · exact hs

/-- After the fetch's advance by two cells, a taken skip makes it four. -/
theorem skipIf_afterFetch (flag : Bool) (s : State) :
    skipIf flag { s with pc := (s.pc + 2) % s.cfg.memSize } =
      { s with pc := (s.pc + (if flag then 4 else 2)) % s.cfg.memSize } := by
  rw [skipIf_eq]
  cases flag with
  | true => simp [Nat.add_assoc]
  | false => rfl

/-! What each instruction does: NOP nothing, each skip the common part on its own flag (R136, R138 to R140). -/

@[simp] theorem exec_nop (s : State) : exec .nop s = .next s := rfl

@[simp] theorem exec_skc (s : State) : exec .skc s = .next (skipIf s.carry s) := rfl

@[simp] theorem exec_skn (s : State) : exec .skn s = .next (skipIf s.negative s) := rfl

@[simp] theorem exec_ske (s : State) : exec .ske s = .next (skipIf s.equal s) := rfl

/-! The words 0x00 and 0x07 to 0x09 (30_encoding.md R75). -/

theorem decodePair_nop : decodePair 0x0 0x0 = .nop := rfl
theorem decodePair_skc : decodePair 0x0 0x7 = .skc := rfl
theorem decodePair_skn : decodePair 0x0 0x8 = .skn := rfl
theorem decodePair_ske : decodePair 0x0 0x9 = .ske := rfl

/-- Settles O20. -/
theorem nopOnlyAdvances : Obligations.NopOnlyAdvances := by
  refine ⟨decodePair_nop, fun s => ⟨exec_nop s, fun hop hv => ?_⟩⟩
  rw [step_of_pair hop hv, decodePair_nop, exec_nop]

/-- Settles O21: each skip is `skipIf` of its flag, alone and after the fetch's advance. -/
theorem skipsTestOneFlag : Obligations.SkipsTestOneFlag := by
  refine ⟨decodePair_skc, decodePair_skn, decodePair_ske, fun s => ⟨?_, ?_, ?_, fun hop =>
    ⟨fun hv => ?skcStep, fun hv => ?sknStep, fun hv => ?skeStep⟩⟩⟩
  · rw [exec_skc, skipIf_eq]
  · rw [exec_skn, skipIf_eq]
  · rw [exec_ske, skipIf_eq]
  case skcStep => rw [step_of_pair hop hv, decodePair_skc, exec_skc, skipIf_afterFetch]
  case sknStep => rw [step_of_pair hop hv, decodePair_skn, exec_skn, skipIf_afterFetch]
  case skeStep => rw [step_of_pair hop hv, decodePair_ske, exec_ske, skipIf_afterFetch]

end Sys2Proof.Machine
end

section
/-! The stack (46_stack.md): the two outcomes of a push and of a pop, what `exec` answers for the four stack
instructions in terms of them, and O25 and O43 from that. -/

namespace Sys2Proof.Machine

/-! A push and a pop, refused and not (R150, R152, R153). -/

theorem pushCell_of_full {s : State} (v : Nibble) (h : s.cfg.stackBoundary ≤ s.sp) :
    pushCell v s = s.setError true := by
  obtain ⟨-, hs⟩ | ⟨hroom, -⟩ := pushCell_cases v s
  · exact hs
  · omega

theorem pushCell_of_room {s : State} (v : Nibble) (h : s.sp < s.cfg.stackBoundary) :
    pushCell v s = (memWrite s s.sp v).setSp (s.sp + 1) := by
  obtain ⟨hfull, -⟩ | ⟨-, hs⟩ := pushCell_cases v s
  · omega
  · exact hs

theorem popCell_of_empty {s : State} (use : Nibble → State → State) (h : s.sp = 0) :
    popCell use s = s.setError true := by
  obtain ⟨-, hs⟩ | ⟨hpos, -⟩ := popCell_cases use s
  · exact hs
  · omega

theorem popCell_of_pos {s : State} (use : Nibble → State → State) (h : 0 < s.sp) :
    popCell use s = use (memRead s (s.sp - 1)) (s.setSp (s.sp - 1)) := by
  obtain ⟨hempty, -⟩ | ⟨-, hs⟩ := popCell_cases use s
  · omega
  · exact hs

/-! What each instruction of the family does: the shared push of a nibble, or the shared pop into a register. -/

@[simp] theorem exec_push (s : State) : exec .push s = .next (pushCell s.a s) := rfl

@[simp] theorem exec_pop (s : State) : exec .pop s = .next (popCell (fun v t => t.setA v) s) := rfl

@[simp] theorem exec_pushpc (s : State) : exec .pushpc s = .next (pushCell (pcLowNibble s) s) := rfl

@[simp] theorem exec_poppc (s : State) :
    exec .poppc s = .next (popCell (fun v t => t.setPc (zextAddr v)) s) := rfl

/-- The word 0x02 (30_encoding.md R75). -/
theorem decodePair_pop : decodePair 0x0 0x2 = .pop := rfl

/-- Settles O25: the two outcomes of the shared pop, the cell going to A. -/
theorem popResult : Obligations.PopResult := by
  refine ⟨decodePair_pop, fun s => ⟨fun hempty => ?_, fun hpos => ?_⟩⟩
  · rw [exec_pop, popCell_of_empty _ hempty]
    rfl
  · rw [exec_pop, popCell_of_pos _ hpos]
    rfl

/-! F.Error is sticky and never tested (R158). Both halves are one law: setting F.Error before an operation gives
what setting it after the operation gives. -/

theorem skipIf_setError (flag x : Bool) (s : State) :
    skipIf flag (s.setError x) = (skipIf flag s).setError x := by
  rw [skipIf_eq, skipIf_eq]
  rfl

theorem pushCell_setError_true (v : Nibble) (s : State) :
    pushCell v (s.setError true) = (pushCell v s).setError true := by
  obtain ⟨hfull, hs⟩ | ⟨hroom, hs⟩ := pushCell_cases v s
  · rw [hs]
    exact pushCell_of_full (s := s.setError true) v hfull
  · rw [hs]
    exact pushCell_of_room (s := s.setError true) v hroom

/-- The law for a pop, from the law for what the pop does with the cell. -/
theorem popCell_setError_true {use : Nibble → State → State}
    (huse : ∀ v t, use v (t.setError true) = (use v t).setError true) (s : State) :
    popCell use (s.setError true) = (popCell use s).setError true := by
  obtain ⟨hempty, hs⟩ | ⟨hpos, hs⟩ := popCell_cases use s
  · rw [hs]
    exact popCell_of_empty (s := s.setError true) use hempty
  · rw [hs, ← huse]
    exact popCell_of_pos (s := s.setError true) use hpos

/-- The law for every instruction. The skips and the stack instructions branch, never on F.Error; every other
instruction assigns fields other than F.Error from fields other than F.Error. -/
theorem exec_setError_true (i : Instr) (s : State) :
    ∃ t, exec i s = .next t ∧ exec i (s.setError true) = .next (t.setError true) := by
  cases i with
  | push => exact ⟨_, exec_push s, congrArg _ (pushCell_setError_true s.a s)⟩
  | pushpc => exact ⟨_, exec_pushpc s, congrArg _ (pushCell_setError_true (pcLowNibble s) s)⟩
  | pop => exact ⟨_, exec_pop s, congrArg _ (popCell_setError_true (fun _ _ => rfl) s)⟩
  | poppc => exact ⟨_, exec_poppc s, congrArg _ (popCell_setError_true (fun _ _ => rfl) s)⟩
  | skc => exact ⟨_, exec_skc s, congrArg _ (skipIf_setError s.carry true s)⟩
  | skn => exact ⟨_, exec_skn s, congrArg _ (skipIf_setError s.negative true s)⟩
  | ske => exact ⟨_, exec_ske s, congrArg _ (skipIf_setError s.equal true s)⟩
  | _ => exact ⟨_, rfl, rfl⟩

/-- The law for a step: the pair at PC is the same in both states. -/
theorem step_setError_true (s : State) :
    ∃ t, step s = .next t ∧ step (s.setError true) = .next (t.setError true) := by
  rw [step_eq_exec_decodePair, step_eq_exec_decodePair]
  exact exec_setError_true _ _

/-- The law for a run, by induction on the number of steps. -/
theorem runSteps_setError_true (k : Nat) (s : State) :
    ∃ t, runSteps k s = .next t ∧ runSteps k (s.setError true) = .next (t.setError true) := by
  induction k generalizing s with
  | zero => exact ⟨s, rfl, rfl⟩
  | succ k ih =>
    obtain ⟨s', hs, hsErr⟩ := step_setError_true s
    rw [runSteps_succ hs, runSteps_succ hsErr]
    exact ih s'

/-- Settles O43: a state with F.Error 1 is its F.Error 0 twin with F.Error set, so its run ends in what the twin's
run ends in, with F.Error set. -/
theorem stackErrorStaysAndStopsNothing : Obligations.StackErrorStaysAndStopsNothing := by
  intro k s herr
  obtain ⟨u, hu, ht⟩ := runSteps_setError_true k { s with error := false }
  have hs : State.setError { s with error := false } true = s := by
    rw [← herr]
    rfl
  rw [hs] at ht
  exact ⟨u.setError true, u, ht, rfl, hu, rfl⟩

end Sys2Proof.Machine
end

section
/-! The host's read accessors (50_host_interface.md R167): the ranges of the types behind them, the range of SP
under the invariant, and O55 from these. -/

namespace Sys2Proof.Machine

theorem nibble_toNat_le (v : Nibble) : v.toNat ≤ 15 := Nat.le_of_lt_succ v.isLt

/-- Each entry of the flag vector is 0 or 1, whichever flag is read (10_state.md R28). -/
theorem readItem_flag_le (s : State) (i : Fin 4) : readItem s (.flag i) ≤ 1 := Bool.toNat_le (flagAt s i)

/-- R33's bound max(15, STACK_BOUNDARY) on SP lies below MEM_SIZE, by the parameters' constraints (R7, R8). -/
theorem State.Inv.sp_lt {s : State} (h : s.Inv) : s.sp < s.cfg.memSize := by
  obtain ⟨hsize, -, hboundary⟩ := h.cfg_valid
  have hmax : max 15 s.cfg.stackBoundary < s.cfg.memSize := max_lt (by omega) (by omega)
  exact h.sp_le.trans_lt hmax

/-- Settles O55: each value is the field read, its range that of the field's type, and for PC and SP that of
the invariant. -/
theorem readsArePure : Obligations.ReadsArePure := by
  refine ⟨fun _ _ => rfl, fun s x => ⟨?values, ?ranges, ?addresses⟩⟩
  case values => exact ⟨rfl, rfl, rfl, rfl, rfl, rfl, rfl, rfl, rfl, rfl, rfl⟩
  case ranges =>
    exact ⟨nibble_toNat_le s.a, nibble_toNat_le s.b, nibble_toNat_le s.c, nibble_toNat_le (memRead s x),
      readItem_flag_le s⟩
  case addresses => exact fun hinv => ⟨hinv.pc_lt, hinv.sp_lt⟩

end Sys2Proof.Machine
end

section
/-! No exceptions (60_exceptions.md R180): what an instruction may write to PC stays below MEM_SIZE, and O38 from
that. -/

namespace Sys2Proof.Machine

/-! PC after each shared operation that can leave it elsewhere (45_control.md R137) or must not (46_stack.md R152,
R153). -/

theorem skipIf_pc_lt (flag : Bool) {s : State} (hpc : s.pc < s.cfg.memSize) :
    (skipIf flag s).pc < s.cfg.memSize := by
  obtain ⟨-, hs⟩ | ⟨-, hs⟩ := skipIf_cases flag s
  · rw [hs]
    exact addrPlus_lt s.cfg s.pc 2
  · rwa [hs]

theorem pushCell_pc (v : Nibble) (s : State) : (pushCell v s).pc = s.pc := by
  obtain ⟨-, hs⟩ | ⟨-, hs⟩ := pushCell_cases v s
  · rw [hs, State.setError_pc]
  · rw [hs, State.setSp_pc, memWrite_pc]

/-- A pop leaves PC below any bound it was below, if what the pop does with the cell does. -/
theorem popCell_pc_lt {use : Nibble → State → State} {n : Nat} {s : State}
    (huse : ∀ v t, t.pc < n → (use v t).pc < n) (hpc : s.pc < n) : (popCell use s).pc < n := by
  obtain ⟨-, hs⟩ | ⟨-, hs⟩ := popCell_cases use s
  · rwa [hs]
  · rw [hs]
    exact huse _ _ hpc

/-- A popped PC is a zero-extended nibble (46_stack.md R156), an address in any legal memory (00_scope.md R8). -/
theorem zextAddr_lt_memSize {cfg : Config} (hcfg : cfg.Valid) (v : Nibble) : zextAddr v < cfg.memSize := by
  obtain ⟨hsize, -, -⟩ := hcfg
  have hv : zextAddr v ≤ 15 := nibble_toNat_le v
  omega

/-- No instruction faults or is refused, and none takes PC out of the memory. JMP and a taken skip write a reduced
address, POPPC a nibble; every other instruction leaves PC alone (10_state.md R24). -/
theorem exec_completes_pc_lt (i : Instr) {s : State} (hcfg : s.cfg.Valid) (hpc : s.pc < s.cfg.memSize) :
    ∃ t, exec i s = .next t ∧ t.pc < s.cfg.memSize := by
  cases i with
  | jmp v => exact ⟨_, rfl, addrPlus_lt s.cfg programOrigin v.toNat⟩
  | skc => exact ⟨_, exec_skc s, skipIf_pc_lt s.carry hpc⟩
  | skn => exact ⟨_, exec_skn s, skipIf_pc_lt s.negative hpc⟩
  | ske => exact ⟨_, exec_ske s, skipIf_pc_lt s.equal hpc⟩
  | push => exact ⟨_, exec_push s, (pushCell_pc s.a s).trans_lt hpc⟩
  | pushpc => exact ⟨_, exec_pushpc s, (pushCell_pc (pcLowNibble s) s).trans_lt hpc⟩
  | pop => exact ⟨_, exec_pop s, popCell_pc_lt (fun _ _ ht => ht) hpc⟩
  | poppc => exact ⟨_, exec_poppc s, popCell_pc_lt (fun v _ _ => zextAddr_lt_memSize hcfg v) hpc⟩
  | _ => exact ⟨_, rfl, hpc⟩

/-- Settles O38: the fetch leaves a PC below MEM_SIZE whatever PC was before, and the instruction keeps it there. -/
theorem everyStepCompletes : Obligations.EveryStepCompletes := by
  intro s hcfg
  rw [step_eq_exec_decodePair]
  exact exec_completes_pc_lt _ (s := { s with pc := (s.pc + 2) % s.cfg.memSize }) hcfg
    (Nat.mod_lt _ s.cfg.memSize_pos)

end Sys2Proof.Machine
end

section
/-! Encoding (30_encoding.md): the encoder undoes the decoder on every pair of cells, NOT's operand cell apart, the
decoder undoes the encoder on every well-formed instruction, and O1 to O5 from these. -/

namespace Sys2Proof.Machine

/-! The decoder tables are one to one (R74, R75), but for NOT's operand cell (R78). -/

theorem decodeSecondary_reencodes (v : Nibble) :
    (decodeSecondary v).wellFormed = true ∧ decodeSecondary v ≠ .not ∧
      encode (decodeSecondary v) = [0x0, v] := by
  revert v
  decide

/-- Opcode by opcode: 0 goes through the secondary table, 9 is NOT, and each of the others stands for one
constructor, with the operand cell in it. -/
theorem decodePair_reencodes (op v : Nibble) :
    (decodePair op v).wellFormed = true ∧
      ((decodePair op v ≠ .not ∧ encode (decodePair op v) = [op, v]) ∨
        (decodePair op v = .not ∧ op = 0x9)) := by
  obtain ⟨n, hn, rfl⟩ : ∃ n < 16, op = BitVec.ofNat 4 n := ⟨op.toNat, op.isLt, by simp⟩
  match n with
  | 0 => exact (decodeSecondary_reencodes v).imp_right .inl
  | 9 => exact ⟨rfl, .inr ⟨rfl, rfl⟩⟩
  | 1 | 2 | 3 | 4 | 5 | 6 | 7 | 8 | 10 | 11 | 12 | 13 | 14 | 15 =>
    exact ⟨rfl, .inl ⟨Instr.noConfusion, rfl⟩⟩
  | n + 16 => omega

/-- The six invalid secondary words (R77). -/
theorem decodePair_invsec {v : Nibble} (h : 10 ≤ v.toNat) : decodePair 0x0 v = .invsec v := by
  revert v
  decide

/-- Settles O2: each constructor's two cells lead back to it through the tables, INVSEC's by its range of
operands. -/
theorem decodeOfEncode : Obligations.DecodeOfEncode := by
  intro i rest hwf
  cases i with
  | invsec v => exact congrArg (fun j => Except.ok (j, rest)) (decodePair_invsec (of_decide_eq_true hwf))
  | _ => rfl

/-- Settles O3: what decodes is a pair of cells with its instruction, and the tables are one to one. -/
theorem decodedCellsReencode : Obligations.DecodedCellsReencode := by
  intro cells rest i hdec
  match cells, hdec with
  | op :: v :: _, rfl =>
    obtain ⟨hwf, ⟨hne, henc⟩ | ⟨hnot, rfl⟩⟩ := decodePair_reencodes op v
    · exact ⟨hwf, .inl ⟨hne, by rw [henc]; rfl⟩⟩
    · exact ⟨hwf, .inr ⟨hnot, v, rfl⟩⟩

/-- Settles O4, from O3 in the one direction and O2 in the other. -/
theorem onlySixInvalidWords : Obligations.OnlySixInvalidWords := by
  intro cells rest w
  constructor
  · intro hdec
    obtain ⟨hwf, ⟨-, hcells⟩ | ⟨hnot, -⟩⟩ := decodedCellsReencode cells rest _ hdec
    · exact ⟨hcells, of_decide_eq_true hwf⟩
    · exact Instr.noConfusion hnot
  · rintro ⟨rfl, hw⟩
    exact decodeOfEncode (.invsec w) rest (decide_eq_true hw)

/-- Settles O1. -/
theorem writtenWordsDecode : Obligations.WrittenWordsDecode := by
  unfold Obligations.WrittenWordsDecode
  decide

/-- Settles O5. -/
theorem twoCellsAlwaysDecode : Obligations.TwoCellsAlwaysDecode := by
  refine ⟨fun i => by cases i <;> rfl, fun cells => ?_⟩
  match cells with
  | [] => simp [decode]
  | [_] => simp [decode]
  | op :: v :: rest => exact ⟨fun _ => ⟨decodePair op v, rfl⟩, fun h => by simp at h⟩

end Sys2Proof.Machine
end

section
/-! The fetch (40_step_cycle.md R92): where its two cells come from, at the end of memory and after a store, and O6
to O8 from that. -/

namespace Sys2Proof.Machine

/-- Settles O6: the one decoding of the pair at PC is what the step executes. -/
theorem stepRunsDecoded : Obligations.StepRunsDecoded := by
  intro s i hdec
  obtain ⟨rfl, -⟩ : decodePair (memRead s s.pc) (memRead s (s.pc + 1)) = i ∧ ([] : List Nibble) = [] :=
    Prod.mk.inj (Except.ok.inj hdec)
  exact step_eq_exec_decodePair s

/-- The address MEM_SIZE is cell 0 (20_memory.md R53). -/
theorem memRead_memSize (s : State) : memRead s s.cfg.memSize = memRead s 0 := by
  rw [← memRead_mod s s.cfg.memSize, Nat.mod_self]

/-- Settles O7: the operand address is MEM_SIZE, the next pair's MEM_SIZE + 1, and both are reduced. -/
theorem lastCellOperandWraps : Obligations.LastCellOperandWraps := by
  intro s hcfg hpc
  obtain ⟨hsize, -, -⟩ := hcfg
  have hnext : s.pc + 1 = s.cfg.memSize := by omega
  have hwrap : (s.pc + 2) % s.cfg.memSize = 1 := by
    rw [show s.pc + 2 = s.cfg.memSize + 1 by omega, Nat.add_mod_left, Nat.mod_eq_of_lt (by omega)]
  rw [fetch_eq]
  refine ⟨congrArg (memRead s) hpc, ?_, congrArg s.setPc hwrap⟩
  show memRead s (s.pc + 1) = memRead s 0
  rw [hnext, memRead_memSize]

/-- Settles O8: a fetch is two reads, and a read after a write is known. -/
theorem storeSeenByNextFetch : Obligations.StoreSeenByNextFetch := by
  intro s x v
  rw [fetch_eq]
  exact ⟨memRead_memWrite s x s.pc v, memRead_memWrite s x (s.pc + 1) v⟩

end Sys2Proof.Machine
end

section
/-! What `exec` answers for the instructions the sections above leave out (42_compare.md, 43_arithmetic.md,
44_logic.md, 45_control.md, 46_stack.md), and O14, O16, O18, O19, O22 to O24, O26 and O27 from it. -/

namespace Sys2Proof.Machine

@[simp] theorem exec_cmpf (v : Nibble) (s : State) :
    exec (.cmpf v) s = .next { s with equal := equalOf s.a v } := rfl

@[simp] theorem exec_sub (v : Nibble) (s : State) : exec (.sub v) s = .next (subFromA v s) := rfl

@[simp] theorem exec_sbi (v : Nibble) (s : State) : exec (.sbi v) s = .next (subFromA v s) := rfl

@[simp] theorem exec_not (s : State) : exec .not s = .next { s with a := ~~~s.a } := rfl

@[simp] theorem exec_jmp (v : Nibble) (s : State) :
    exec (.jmp v) s = .next { s with pc := (15 + v.toNat) % s.cfg.memSize } := rfl

@[simp] theorem exec_ssp (v : Nibble) (s : State) : exec (.ssp v) s = .next { s with sp := v.toNat } := rfl

@[simp] theorem exec_invsec (v : Nibble) (s : State) :
    exec (.invsec v) s = .next { s with diags := s.diags ++ [.invalidSecondaryOperand v] } := rfl

/-! Their words (30_encoding.md R74, R75). -/

theorem decodePair_cmpf (v : Nibble) : decodePair 0xF v = .cmpf v := rfl
theorem decodePair_sub (v : Nibble) : decodePair 0x5 v = .sub v := rfl
theorem decodePair_sbi (v : Nibble) : decodePair 0xE v = .sbi v := rfl
theorem decodePair_not (v : Nibble) : decodePair 0x9 v = .not := rfl
theorem decodePair_jmp (v : Nibble) : decodePair 0xB v = .jmp v := rfl
theorem decodePair_ssp (v : Nibble) : decodePair 0xC v = .ssp v := rfl
theorem decodePair_push : decodePair 0x0 0x1 = .push := rfl
theorem decodePair_pushpc : decodePair 0x0 0x3 = .pushpc := rfl
theorem decodePair_poppc : decodePair 0x0 0x4 = .poppc := rfl

/-! Compare: F.Equal as a comparison of numbers. -/

theorem equalOf_eq_toNat (x y : Nibble) : equalOf x y = decide (x.toNat = y.toNat) :=
  decide_eq_decide.mpr BitVec.toNat_inj.symm

/-- Settles O14. -/
theorem cmpfAsCmp : Obligations.CmpfAsCmp :=
  fun v s => ⟨decodePair_cmpf v, rfl, by rw [exec_cmpf, equalOf_eq_toNat]⟩

/-! Subtract: the borrow and the floored remainder in natural numbers (43_arithmetic.md R117, R120). -/

theorem borrowOfDiff_wideDiff (x y : Nibble) :
    borrowOfDiff (wideDiff x y) = decide (x.toNat < y.toNat) := by
  have h : wideDiff x y < 0 ↔ x.toNat < y.toNat := by
    unfold wideDiff
    omega
  exact decide_eq_decide.mpr h

/-- `subFromA_eq` with its values in natural numbers. -/
theorem subFromA_eq_toNat (x : Nibble) (s : State) :
    subFromA x s = { s with
      a := BitVec.ofNat 4 ((s.a.toNat + 15 - x.toNat) % 15)
      carry := decide (s.a.toNat < x.toNat)
      negative := decide (s.a.toNat < x.toNat) } := by
  rw [subFromA_eq, trunc15_wideDiff, borrowOfDiff_wideDiff]

/-- Settles O16. -/
theorem subAndSbiResult : Obligations.SubAndSbiResult :=
  fun v s => ⟨decodePair_sub v, decodePair_sbi v, rfl, by rw [exec_sub, subFromA_eq_toNat]⟩

/-! NOT (44_logic.md R128). -/

theorem nibble_not_eq (x : Nibble) : ~~~x = BitVec.ofNat 4 (15 - x.toNat) := by
  apply BitVec.eq_of_toNat_eq
  have hx := nibble_toNat_le x
  rw [BitVec.toNat_not, BitVec.toNat_ofNat]
  omega

/-- Settles O18: NOT complements A, and a complement is its own inverse. -/
theorem notComplements : Obligations.NotComplements := by
  refine ⟨decodePair_not, fun s => ⟨?_, fun t ht => ?_⟩⟩
  · rw [exec_not, nibble_not_eq]
  · rw [exec_not] at ht
    obtain rfl := Host.Outcome.next.inj ht
    rw [exec_not, BitVec.not_not]

/-! JMP (45_control.md R135). -/

/-- A jump target is an address as it stands in any legal memory (00_scope.md R8). -/
theorem jumpTarget_mod {cfg : Config} (hcfg : cfg.Valid) (v : Nibble) :
    (15 + v.toNat) % cfg.memSize = 15 + v.toNat := by
  obtain ⟨hsize, -, -⟩ := hcfg
  have hv := nibble_toNat_le v
  exact Nat.mod_eq_of_lt (by omega)

/-- Settles O19. -/
theorem jmpResult : Obligations.JmpResult :=
  fun v s => ⟨decodePair_jmp v, exec_jmp v s, fun hcfg => by rw [exec_jmp, jumpTarget_mod hcfg]⟩

/-- Settles O22. -/
theorem invsecOnlyDiagnoses : Obligations.InvsecOnlyDiagnoses :=
  fun v s => ⟨decodePair_invsec, exec_invsec v s⟩

/-- Settles O23. -/
theorem sspSetsSp : Obligations.SspSetsSp :=
  fun v s => ⟨decodePair_ssp v, exec_ssp v s⟩

/-! The pushes (46_stack.md R152, R155): one law for the shared push of any nibble. -/

/-- A push below the boundary stores its nibble at the old SP and changes no other cell. -/
theorem pushCell_stores {s : State} (v : Nibble) (hroom : s.sp < s.cfg.stackBoundary) :
    pushCell v s = { s with sp := s.sp + 1, mem := (pushCell v s).mem } ∧ memRead (pushCell v s) s.sp = v ∧
      SameMemoryBut s.sp s (pushCell v s) := by
  rw [pushCell_of_room v hroom]
  exact ⟨rfl, memRead_memWrite_same s s.sp v, fun _ hx => memRead_memWrite_of_ne v hx⟩

/-- Settles O24. -/
theorem pushResult : Obligations.PushResult := by
  refine ⟨decodePair_push, fun s => ⟨fun hfull => ?_, fun hroom => ?_⟩⟩
  · exact congrArg Host.Outcome.next (pushCell_of_full s.a hfull)
  · exact ⟨_, exec_push s, pushCell_stores s.a hroom⟩

/-- Settles O26: PUSHPC is the push of the low four bits of PC, which are PC mod 16. -/
theorem pushpcResult : Obligations.PushpcResult := by
  refine ⟨decodePair_pushpc, fun s => ⟨fun hfull => ?_, fun hroom => ?_⟩⟩
  · exact congrArg Host.Outcome.next (pushCell_of_full (pcLowNibble s) hfull)
  · obtain ⟨hfields, hcell, hothers⟩ := pushCell_stores (pcLowNibble s) hroom
    have hlow : (pcLowNibble s).toNat = s.pc % 16 := BitVec.toNat_ofNat s.pc 4
    exact ⟨_, exec_pushpc s, hfields, (congrArg BitVec.toNat hcell).trans hlow, hothers⟩

/-- Settles O27: the two outcomes of the shared pop, the cell going to PC. -/
theorem poppcResult : Obligations.PoppcResult := by
  refine ⟨decodePair_poppc, fun s => ⟨fun hempty => ?_, fun hpos => ?_⟩⟩
  · exact congrArg Host.Outcome.next (popCell_of_empty _ hempty)
  · exact congrArg Host.Outcome.next (popCell_of_pos _ hpos)

end Sys2Proof.Machine
end

section
/-! The truncation law (43_arithmetic.md R115 to R121): add and subtract over the integers, and O28 to O30 from
that. -/

namespace Sys2Proof.Machine

/-! A and the flags after an add and a subtract, in the untruncated result. -/

theorem addToA_a_toNat (x : Nibble) (s : State) :
    ((addToA x s).a.toNat : Int) = ((s.a.toNat : Int) + x.toNat) % 15 :=
  trunc15_toNat _

theorem addToA_carry (x : Nibble) (s : State) :
    (addToA x s).carry = decide ((s.a.toNat : Int) + x.toNat > 15) := rfl

theorem subFromA_a_toNat (x : Nibble) (s : State) :
    ((subFromA x s).a.toNat : Int) = ((s.a.toNat : Int) - x.toNat) % 15 :=
  trunc15_toNat _

theorem subFromA_carry (x : Nibble) (s : State) :
    (subFromA x s).carry = decide ((s.a.toNat : Int) - x.toNat < 0) := rfl

theorem subFromA_negative (x : Nibble) (s : State) :
    (subFromA x s).negative = decide ((s.a.toNat : Int) - x.toNat < 0) := rfl

/-! The result tables (43_arithmetic.md section 3), row by row. -/

theorem addToA_table (x : Nibble) (s : State) :
    (s.a.toNat + x.toNat ≤ 14 →
      (addToA x s).a.toNat = s.a.toNat + x.toNat ∧ (addToA x s).carry = false) ∧
    (s.a.toNat + x.toNat = 15 → (addToA x s).a.toNat = 0 ∧ (addToA x s).carry = false) ∧
    (16 ≤ s.a.toNat + x.toNat → s.a.toNat + x.toNat ≤ 29 →
      (addToA x s).a.toNat = s.a.toNat + x.toNat - 15 ∧ (addToA x s).carry = true) ∧
    (s.a.toNat + x.toNat = 30 → (addToA x s).a.toNat = 0 ∧ (addToA x s).carry = true) := by
  have ha := addToA_a_toNat x s
  rw [addToA_carry]
  exact ⟨fun _ => ⟨by omega, decide_eq_false (by omega)⟩, fun _ => ⟨by omega, decide_eq_false (by omega)⟩,
    fun _ _ => ⟨by omega, decide_eq_true (by omega)⟩, fun _ => ⟨by omega, decide_eq_true (by omega)⟩⟩

theorem subFromA_table (x : Nibble) (s : State) :
    (s.a.toNat = x.toNat + 15 →
      (subFromA x s).a.toNat = 0 ∧ (subFromA x s).carry = false ∧ (subFromA x s).negative = false) ∧
    (x.toNat ≤ s.a.toNat → s.a.toNat ≤ x.toNat + 14 →
      (subFromA x s).a.toNat = s.a.toNat - x.toNat ∧ (subFromA x s).carry = false ∧
        (subFromA x s).negative = false) ∧
    (s.a.toNat < x.toNat → x.toNat ≤ s.a.toNat + 14 →
      (subFromA x s).a.toNat = s.a.toNat + 15 - x.toNat ∧ (subFromA x s).carry = true ∧
        (subFromA x s).negative = true) ∧
    (x.toNat = s.a.toNat + 15 →
      (subFromA x s).a.toNat = 0 ∧ (subFromA x s).carry = true ∧ (subFromA x s).negative = true) := by
  have ha := subFromA_a_toNat x s
  rw [subFromA_carry, subFromA_negative, and_self_iff, and_self_iff]
  exact ⟨fun _ => ⟨by omega, decide_eq_false (by omega)⟩, fun _ _ => ⟨by omega, decide_eq_false (by omega)⟩,
    fun _ _ => ⟨by omega, decide_eq_true (by omega)⟩, fun _ => ⟨by omega, decide_eq_true (by omega)⟩⟩

/-- Settles O28: the four forms are two operations, each with its table. -/
theorem arithmeticTables : Obligations.ArithmeticTables := by
  refine fun i x s => ⟨?add, ?sub⟩
  case add =>
    rintro (rfl | ⟨v, rfl, rfl⟩)
    · exact ⟨_, exec_adi x s, addToA_table x s⟩
    · exact ⟨_, exec_add v s, addToA_table (memRead s v.toNat) s⟩
  case sub =>
    rintro (rfl | rfl)
    · exact ⟨_, exec_sbi x s, subFromA_table x s⟩
    · exact ⟨_, exec_sub x s, subFromA_table x s⟩

theorem trunc15_toNat_le (x : Int) : (trunc15 x).toNat ≤ 14 := by
  have h := trunc15_toNat x
  omega

/-- Truncation is idempotent: a remainder by 15 is its own remainder by 15. -/
theorem trunc15_trunc15 (x : Int) : trunc15 (trunc15 x).toNat = trunc15 x := by
  rw [trunc15_natCast, Nat.mod_eq_of_lt (Nat.lt_succ_of_le (trunc15_toNat_le x)), BitVec.ofNat_toNat,
    BitVec.setWidth_eq]

/-- The operand 15 is the one nibble OR always leaves. -/
theorem nibble_or_fifteen (x : Nibble) : x ||| 15 = 15 := BitVec.or_allOnes

/-- Settles O29: each of the four instructions is an add or a subtract, whose A is the truncated result; LDI, OR
and POP truncate nothing. -/
theorem truncationLaw : Obligations.TruncationLaw := by
  refine ⟨fun v s t => ⟨?add, ?adi, ?sub, ?range⟩, trunc15_trunc15, fun s =>
    ⟨⟨_, exec_ldi 15 s, rfl⟩, ⟨_, exec_or 15 s, nibble_or_fifteen s.a⟩, fun hpos hcell => ?pop⟩⟩
  case add =>
    rintro ⟨⟩
    exact ⟨addToA_a_toNat _ s, addToA_carry _ s⟩
  case adi =>
    rintro ⟨⟩
    exact ⟨addToA_a_toNat v s, addToA_carry v s⟩
  case sub =>
    rintro (⟨⟨⟩⟩ | ⟨⟨⟩⟩) <;> exact ⟨subFromA_a_toNat v s, subFromA_carry v s, subFromA_negative v s⟩
  case range =>
    rintro (⟨⟨⟩⟩ | ⟨⟨⟩⟩ | ⟨⟨⟩⟩ | ⟨⟨⟩⟩) <;> exact trunc15_toNat_le _
  case pop =>
    refine ⟨_, exec_pop s, ?_⟩
    rw [popCell_of_pos _ hpos]
    exact hcell

/-- Settles O30: over the integers the two remainders give `(A + V - V) mod 15`, which is A where A is at most 14. -/
theorem addThenSubtractRestores : Obligations.AddThenSubtractRestores := by
  intro v s ha
  refine ⟨_, _, exec_adi v s, exec_sbi v _, BitVec.eq_of_toNat_eq ?_⟩
  have hadd := addToA_a_toNat v s
  have hsub := subFromA_a_toNat v (addToA v s)
  omega

end Sys2Proof.Machine
end

section
/-! A push and a pop right after it (46_stack.md section 1): O31. -/

namespace Sys2Proof.Machine

/-- Settles O31: SP after the push is above 0, so the pop is not refused and reads the cell just stored. -/
theorem pushThenPopRestores : Obligations.PushThenPopRestores := by
  intro s hroom
  obtain ⟨hfields, hcell, hothers⟩ := pushCell_stores s.a hroom
  have hsp : (pushCell s.a s).sp = s.sp + 1 := congrArg State.sp hfields
  refine ⟨_, exec_push s, ?_, hcell, hothers⟩
  rw [exec_pop, popCell_of_pos _ (by omega), hsp, Nat.add_sub_cancel, hcell, hfields]
  rfl

end Sys2Proof.Machine
end

section
/-! Frames (10_state.md R22 to R32, 20_memory.md R51): what an instruction leaves unchanged, said once for all
fields but PC, what it does to PC, and O32 to O36 from these. -/

namespace Sys2Proof.Machine

/-- What executing `i` from `s` to `t` leaves as it was: the registers and flags outside the instruction's list,
memory where nothing is stored, the parameters, HALTREQ, and the diagnostics but for INVSEC's. -/
structure Keeps (i : Instr) (s t : State) : Prop where
  regA : Written.regA ∉ writes i → t.a = s.a
  regB : Written.regB ∉ writes i → t.b = s.b
  regC : Written.regC ∉ writes i → t.c = s.c
  sp : Written.sp ∉ writes i → t.sp = s.sp
  carry : Written.carry ∉ writes i → t.carry = s.carry
  negative : Written.negative ∉ writes i → t.negative = s.negative
  equal : Written.equal ∉ writes i → t.equal = s.equal
  error : Written.error ∉ writes i → t.error = s.error
  mem : storeTarget i s = none → t.mem = s.mem
  cfg : t.cfg = s.cfg
  haltReq : t.haltReq = s.haltReq
  diags : (∀ v, i ≠ .invsec v) → t.diags = s.diags

theorem skipIf_keeps (i : Instr) (flag : Bool) (s : State) : Keeps i s (skipIf flag s) := by
  rw [skipIf_eq]
  constructor <;> intros <;> rfl

/-- A refused push or pop writes F.Error, which all four stack instructions list. -/
theorem setError_keeps {i : Instr} (hi : Written.error ∈ writes i) (s : State) : Keeps i s (s.setError true) := by
  constructor <;> simp [hi]

theorem pushCell_keeps {i : Instr} (hi : i = .push ∨ i = .pushpc) (v : Nibble) (s : State) :
    Keeps i s (pushCell v s) := by
  obtain ⟨-, hs⟩ | ⟨hroom, hs⟩ := pushCell_cases v s
  · rw [hs]
    exact setError_keeps (by obtain rfl | rfl := hi <;> decide) s
  · have hstore : stackFull s = false := decide_eq_false (Nat.not_le.mpr hroom)
    rw [hs]
    obtain rfl | rfl := hi <;> constructor <;> simp [writes, storeTarget, hstore]

/-- Case by case: the skips, pushes and pops by their shared operations, every other instruction by its own
assignments. -/
theorem exec_keeps {i : Instr} {s t : State} (h : exec i s = .next t) : Keeps i s t := by
  cases i with
  | skc => cases h; exact skipIf_keeps _ _ s
  | skn => cases h; exact skipIf_keeps _ _ s
  | ske => cases h; exact skipIf_keeps _ _ s
  | push => cases h; exact pushCell_keeps (.inl rfl) _ s
  | pushpc => cases h; exact pushCell_keeps (.inr rfl) _ s
  | pop =>
    cases h
    obtain ⟨-, hs⟩ | ⟨-, hs⟩ := popCell_cases (fun v t => t.setA v) s
    · rw [hs]; exact setError_keeps (by decide) s
    · rw [hs]; constructor <;> simp [writes]
  | poppc =>
    cases h
    obtain ⟨-, hs⟩ | ⟨-, hs⟩ := popCell_cases (fun v t => t.setPc (zextAddr v)) s
    · rw [hs]; exact setError_keeps (by decide) s
    · rw [hs]; constructor <;> simp [writes]
  | _ => cases h; constructor <;> simp [writes, storeTarget, addToA, subFromA, compareA, emitDiagnostic]

/-- Settles O32. -/
theorem registerFrame : Obligations.RegisterFrame := fun i s t h =>
  have k : Keeps i s t := exec_keeps h
  ⟨k.regA, k.regB, k.regC, k.sp⟩

/-- A set F.Error stays set: executing from a state that has it set is setting it in what is answered. -/
theorem exec_error_sticky {i : Instr} {s t : State} (h : exec i s = .next t) (herr : s.error = true) :
    t.error = true := by
  obtain ⟨u, -, hu⟩ := exec_setError_true i s
  have hs : s.setError true = s := by
    rw [← herr]
    rfl
  rw [hs, h] at hu
  exact congrArg State.error (Host.Outcome.next.inj hu)

/-- Settles O33: the lists, the two outcomes of a push and of a pop, and the stickiness of F.Error. -/
theorem flagFrame : Obligations.FlagFrame := by
  intro i s t h
  have k := exec_keeps h
  refine ⟨k.carry, k.negative, k.equal, k.error, ?push, ?pop, exec_error_sticky h⟩
  case push =>
    rintro (rfl | rfl) hroom <;> cases h <;> rw [pushCell_of_room _ hroom] <;> rfl
  case pop =>
    rintro (rfl | rfl) hpos <;> cases h <;> rw [popCell_of_pos _ hpos] <;> rfl

/-- Settles O35. -/
theorem outsideFrame : Obligations.OutsideFrame := fun i s t h =>
  have k : Keeps i s t := exec_keeps h
  ⟨k.cfg, k.haltReq, k.diags⟩

/-- A push stores where it is not refused, at SP (46_stack.md R150, R152). -/
theorem storeTarget_push {s : State} {y : Nat} (h : storeTarget .push s = some y) :
    s.sp < s.cfg.stackBoundary ∧ y = s.sp := by
  simp only [storeTarget, stackFull, decide_eq_true_eq] at h
  split at h
  · cases h
  · cases h
    exact ⟨by omega, rfl⟩

theorem pushCell_sameMemoryBut {s : State} {y : Nat} (v : Nibble) (h : storeTarget .push s = some y) :
    SameMemoryBut y s (pushCell v s) := by
  obtain ⟨hroom, rfl⟩ := storeTarget_push h
  obtain ⟨-, -, hothers⟩ := pushCell_stores v hroom
  exact hothers

/-- Settles O36: STA is one write and a push not refused stores at the old SP; nothing else stores. -/
theorem memoryFrame : Obligations.MemoryFrame := by
  intro i s t h
  have k := exec_keeps h
  refine ⟨fun hnone => memRead_congr k.cfg (k.mem hnone), fun y hy => ?_⟩
  cases i with
  | sta v =>
    cases h
    cases hy
    exact fun x hx => memRead_memWrite_of_ne s.a hx
  | push => cases h; exact pushCell_sameMemoryBut _ hy
  | pushpc => cases h; exact pushCell_sameMemoryBut _ hy
  | _ => cases hy

/-! PC (10_state.md R24). -/

theorem skipIf_pc_cases {i : Instr} {flag : Bool} {s : State} (hflag : transfers i s = flag) :
    (transfers i s = false ∧ (skipIf flag s).pc = s.pc) ∨
      (transfers i s = true ∧ (skipIf flag s).pc = (s.pc + 2) % s.cfg.memSize) := by
  obtain ⟨rfl, hs⟩ | ⟨rfl, hs⟩ := skipIf_cases flag s <;> rw [hs]
  · exact .inr ⟨hflag, rfl⟩
  · exact .inl ⟨hflag, rfl⟩

/-- Everything an instruction can do to PC: leave it, jump, skip, or pop it. -/
theorem exec_pc_cases {i : Instr} {s t : State} (h : exec i s = .next t) :
    (transfers i s = false ∧ t.pc = s.pc) ∨
      (∃ v, i = .jmp v ∧ t.pc = (15 + v.toNat) % s.cfg.memSize) ∨
      ((i = .skc ∨ i = .skn ∨ i = .ske) ∧ transfers i s = true ∧ t.pc = (s.pc + 2) % s.cfg.memSize) ∨
      (i = .poppc ∧ 0 < s.sp ∧ t.pc = (memRead s (s.sp - 1)).toNat) := by
  cases i with
  | jmp v => cases h; exact .inr (.inl ⟨v, rfl, rfl⟩)
  | skc => cases h; exact (skipIf_pc_cases (i := .skc) rfl).imp_right fun k => .inr (.inl ⟨by simp, k⟩)
  | skn => cases h; exact (skipIf_pc_cases (i := .skn) rfl).imp_right fun k => .inr (.inl ⟨by simp, k⟩)
  | ske => cases h; exact (skipIf_pc_cases (i := .ske) rfl).imp_right fun k => .inr (.inl ⟨by simp, k⟩)
  | push => cases h; exact .inl ⟨rfl, pushCell_pc _ s⟩
  | pushpc => cases h; exact .inl ⟨rfl, pushCell_pc _ s⟩
  | pop =>
    cases h
    obtain ⟨-, hs⟩ | ⟨-, hs⟩ := popCell_cases (fun v t => t.setA v) s <;> rw [hs] <;> exact .inl ⟨rfl, rfl⟩
  | poppc =>
    cases h
    obtain ⟨hempty, hs⟩ | ⟨hpos, hs⟩ := popCell_cases (fun v t => t.setPc (zextAddr v)) s <;> rw [hs]
    · exact .inl ⟨by simp [transfers, stackEmpty, hempty], rfl⟩
    · exact .inr (.inr (.inr ⟨rfl, hpos, rfl⟩))
  | _ => cases h; exact .inl ⟨rfl, rfl⟩

/-- Settles O34: the three other cases transfer control. -/
theorem pcFrame : Obligations.PcFrame := by
  intro i s t h htransfers
  obtain ⟨-, hpc⟩ | ⟨v, rfl, -⟩ | ⟨-, htaken, -⟩ | ⟨rfl, hpos, -⟩ := exec_pc_cases h
  · exact hpc
  · cases htransfers
  · rw [htransfers] at htaken
    cases htaken
  · simp [transfers, stackEmpty] at htransfers
    omega

end Sys2Proof.Machine
end

section
/-! The invariant (10_state.md R33): one law per shared operation, then for an instruction, a step, load() and
reset(); the moves of the host; and O39 to O41 and O44 from these. -/

namespace Sys2Proof.Machine

/-! Writes that can break a clause of the invariant, and the shared operations made of them. -/

theorem State.Inv.setPc {s : State} (hs : s.Inv) {x : Nat} (hx : x < s.cfg.memSize) : (s.setPc x).Inv :=
  { hs with pc_lt := hx }

theorem State.Inv.setSp {s : State} (hs : s.Inv) {x : Nat} (hx : x ≤ max 15 s.cfg.stackBoundary) :
    (s.setSp x).Inv :=
  { hs with sp_le := hx }

theorem State.Inv.memWrite {s : State} (hs : s.Inv) (x : Nat) (v : Nibble) : (memWrite s x v).Inv :=
  { hs with mem_wf := memWrite_wf x v hs.mem_wf, mem_lt := memWrite_mem_lt x v hs.mem_lt }

theorem State.Inv.setError {s : State} (hs : s.Inv) (x : Bool) : (s.setError x).Inv := { hs with }

theorem State.Inv.skipIf {s : State} (hs : s.Inv) (flag : Bool) : (skipIf flag s).Inv := by
  obtain ⟨-, h⟩ | ⟨-, h⟩ := skipIf_cases flag s <;> rw [h]
  · exact hs.setPc (addrPlus_lt s.cfg s.pc 2)
  · exact hs

/-- A push that is not refused leaves SP at most at the boundary it was below. -/
theorem State.Inv.pushCell {s : State} (hs : s.Inv) (v : Nibble) : (pushCell v s).Inv := by
  obtain ⟨-, h⟩ | ⟨hroom, h⟩ := pushCell_cases v s <;> rw [h]
  · exact hs.setError true
  · exact (hs.memWrite s.sp v).setSp (le_max_of_le_right hroom)

theorem State.Inv.popCell {s : State} (hs : s.Inv) {use : Nibble → State → State}
    (huse : ∀ v t, t.Inv → (use v t).Inv) : (popCell use s).Inv := by
  obtain ⟨-, h⟩ | ⟨-, h⟩ := popCell_cases use s <;> rw [h]
  · exact hs.setError true
  · exact huse _ _ (hs.setSp ((Nat.sub_le s.sp 1).trans hs.sp_le))

/-- An instruction that assigns neither PC, SP nor memory keeps every clause as it stands. -/
theorem exec_keeps_inv {i : Instr} {s t : State} (hs : s.Inv) (h : exec i s = .next t) : t.Inv := by
  cases i with
  | sta v => cases h; exact hs.memWrite _ s.a
  | jmp v => cases h; exact hs.setPc (addrPlus_lt s.cfg programOrigin v.toNat)
  | ssp v => cases h; exact hs.setSp (le_max_of_le_left (nibble_toNat_le v))
  | skc => cases h; exact hs.skipIf s.carry
  | skn => cases h; exact hs.skipIf s.negative
  | ske => cases h; exact hs.skipIf s.equal
  | push => cases h; exact hs.pushCell s.a
  | pushpc => cases h; exact hs.pushCell (pcLowNibble s)
  | pop => cases h; exact hs.popCell fun _ _ ht => { ht with }
  | poppc => cases h; exact hs.popCell fun v _ ht => ht.setPc (zextAddr_lt_memSize ht.cfg_valid v)
  | _ => cases h; exact { hs with }

/-- Settles O40: the fetch's advance leaves a reduced PC, from which the instruction keeps the invariant. -/
theorem stepKeepsInv : Obligations.StepKeepsInv := by
  intro s t hs h
  rw [step_eq_exec_decodePair] at h
  exact exec_keeps_inv (hs.setPc (Nat.mod_lt _ s.cfg.memSize_pos)) h

/-! Reset. -/

theorem resetWith_inv {cfg : Config} (hcfg : cfg.Valid) : (State.resetWith cfg).Inv where
  cfg_valid := hcfg
  pc_lt := by
    obtain ⟨hsize, -, -⟩ := hcfg
    show 15 < cfg.memSize
    omega
  sp_le := Nat.zero_le _
  mem_wf := reset_mem_wf cfg
  mem_lt := by simp

/-- Settles O39. -/
theorem resetMeetsInv : Obligations.ResetMeetsInv :=
  ⟨fun _ hcfg => resetWith_inv hcfg, resetWith_inv (by decide), rfl⟩

/-! The host's moves. -/

theorem writeCells_inv (vs : List Nibble) (x : Nat) {s : State} (hs : s.Inv) : (writeCells vs x s).Inv := by
  induction vs generalizing x s with
  | nil => exact hs
  | cons v vs ih => exact ih (x + 1) (hs.memWrite x v)

theorem hostReset_inv {s : State} (hcfg : s.cfg.Valid) : (hostReset s).Inv := { resetWith_inv hcfg with }

/-- Everything a move of the host can do to the state, the reply apart (50_host_interface.md R165). -/
theorem hostMove_cases {m : HostMove} {s t : State} {r : HostReply} (h : hostMove m s = .next (t, r)) :
    (m = .reset ∧ t = hostReset s) ∨ (∃ seq, m = .load seq ∧ (t = writeCells seq 15 s ∨ t = s)) ∨
      (m = .step ∧ step s = .next t) ∨ (m = .run ∧ t = hostRun s) ∨
      ((m = .stop ∨ ∃ item, m = .read item) ∧ t = s) := by
  cases m with
  | reset => cases h; exact .inl ⟨rfl, rfl⟩
  | load seq =>
    obtain ⟨-, hl⟩ | ⟨-, hl⟩ := load_cases seq s <;> simp only [hostMove, hl] at h <;> cases h
    · exact .inr (.inl ⟨seq, rfl, .inl rfl⟩)
    · exact .inr (.inl ⟨seq, rfl, .inr rfl⟩)
  | step =>
    cases hstep : step s <;> simp only [hostMove, hstep] at h <;> cases h
    exact .inr (.inr (.inl ⟨rfl, rfl⟩))
  | run => cases h; exact .inr (.inr (.inr (.inl ⟨rfl, rfl⟩)))
  | stop => cases h; exact .inr (.inr (.inr (.inr ⟨.inl rfl, rfl⟩)))
  | read item => cases h; exact .inr (.inr (.inr (.inr ⟨.inr ⟨item, rfl⟩, rfl⟩)))

/-- Settles O41. -/
theorem hostMovesKeepInv : Obligations.HostMovesKeepInv := by
  refine ⟨fun m s t r hs h => ?_, fun _ => hostReset_inv⟩
  obtain ⟨-, rfl⟩ | ⟨seq, -, rfl | rfl⟩ | ⟨-, hstep⟩ | ⟨-, rfl⟩ | ⟨-, rfl⟩ := hostMove_cases h
  · exact hostReset_inv hs.cfg_valid
  · exact writeCells_inv seq 15 hs
  · exact hs
  · exact stepKeepsInv s t hs hstep
  · exact { hs with }
  · exact hs

/-! The one move that clears F.Error (10_state.md section 5, 50_host_interface.md R166). -/

theorem writeCells_error (vs : List Nibble) (x : Nat) (s : State) : (writeCells vs x s).error = s.error := by
  rw [writeCells_eq]

theorem step_error_sticky {s t : State} (h : step s = .next t) (herr : s.error = true) : t.error = true := by
  rw [step_eq_exec_decodePair] at h
  exact exec_error_sticky h herr

/-- Settles O44: reset() gives F.Error 0, and after every other move it is still 1. -/
theorem onlyResetClearsError : Obligations.OnlyResetClearsError := by
  intro m s t r herr h
  obtain ⟨rfl, rfl⟩ | ⟨seq, rfl, ht⟩ | ⟨rfl, hstep⟩ | ⟨rfl, rfl⟩ | ⟨hm, rfl⟩ := hostMove_cases h
  · exact ⟨fun _ => rfl, fun _ => rfl⟩
  · have hset : t.error = true := by
      obtain rfl | rfl := ht
      · rw [writeCells_error, herr]
      · exact herr
    simp [hset]
  · simp [step_error_sticky hstep herr]
  · simp [hostRun, herr]
  · obtain rfl | ⟨item, rfl⟩ := hm <;> simp [herr]

end Sys2Proof.Machine
end

section
/-! The fields no instruction but the swaps and INVSEC reads: B, C, HALTREQ and the diagnostics (10_state.md sections
2 and 6, 50_host_interface.md section 4). One law for all four, and O37, O42, O45 and O46 from it. -/

namespace Sys2Proof.Machine

/-- `s` with other values in the four fields that no shared operation reads or writes. -/
def State.withUnread (s : State) (x y : Nibble) (h : Bool) (ds : List Diagnostic) : State :=
  { s with b := x, c := y, haltReq := h, diags := ds }

section
variable (x y : Nibble) (h : Bool) (ds : List Diagnostic) (s : State)

theorem skipIf_withUnread (flag : Bool) :
    skipIf flag (s.withUnread x y h ds) = (skipIf flag s).withUnread x y h ds := by
  rw [skipIf_eq, skipIf_eq]
  rfl

theorem pushCell_withUnread (v : Nibble) :
    pushCell v (s.withUnread x y h ds) = (pushCell v s).withUnread x y h ds := by
  obtain ⟨hfull, hs⟩ | ⟨hroom, hs⟩ := pushCell_cases v s <;> rw [hs]
  · exact pushCell_of_full (s := s.withUnread x y h ds) v hfull
  · exact pushCell_of_room (s := s.withUnread x y h ds) v hroom

theorem popCell_withUnread {use : Nibble → State → State}
    (huse : ∀ v t, use v (t.withUnread x y h ds) = (use v t).withUnread x y h ds) :
    popCell use (s.withUnread x y h ds) = (popCell use s).withUnread x y h ds := by
  obtain ⟨hempty, hs⟩ | ⟨hpos, hs⟩ := popCell_cases use s <;> rw [hs]
  · exact popCell_of_empty (s := s.withUnread x y h ds) use hempty
  · rw [← huse]
    exact popCell_of_pos (s := s.withUnread x y h ds) use hpos

/-- The law for an instruction: the skips and the stack instructions by their shared operations, every other one
because it assigns other fields from other fields. -/
theorem exec_withUnread {i : Instr} (hab : i ≠ .swab) (hbc : i ≠ .swbc) (hinv : ∀ v, i ≠ .invsec v) :
    ∃ t, exec i s = .next t ∧ exec i (s.withUnread x y h ds) = .next (t.withUnread x y h ds) := by
  cases i with
  | swab => exact absurd rfl hab
  | swbc => exact absurd rfl hbc
  | invsec v => exact absurd rfl (hinv v)
  | skc => exact ⟨_, exec_skc s, congrArg _ (skipIf_withUnread x y h ds s s.carry)⟩
  | skn => exact ⟨_, exec_skn s, congrArg _ (skipIf_withUnread x y h ds s s.negative)⟩
  | ske => exact ⟨_, exec_ske s, congrArg _ (skipIf_withUnread x y h ds s s.equal)⟩
  | push => exact ⟨_, exec_push s, congrArg _ (pushCell_withUnread x y h ds s s.a)⟩
  | pushpc => exact ⟨_, exec_pushpc s, congrArg _ (pushCell_withUnread x y h ds s (pcLowNibble s))⟩
  | pop => exact ⟨_, exec_pop s, congrArg _ (popCell_withUnread x y h ds s fun _ _ => rfl)⟩
  | poppc => exact ⟨_, exec_poppc s, congrArg _ (popCell_withUnread x y h ds s fun _ _ => rfl)⟩
  | _ => exact ⟨_, rfl, rfl⟩

end

/-- Settles O37: INVSEC is known; by the law every other instruction takes the two registers along, HALTREQ and the
diagnostics being those it keeps. -/
theorem bAndCOnlyThroughSwaps : Obligations.BAndCOnlyThroughSwaps := by
  intro i s x y hab hbc
  by_cases hinv : ∃ v, i = .invsec v
  · obtain ⟨v, rfl⟩ := hinv
    exact ⟨_, exec_invsec v s, rfl⟩
  · have hinv : ∀ v, i ≠ .invsec v := not_exists.mp hinv
    obtain ⟨t, ht, hxy⟩ := exec_withUnread x y s.haltReq s.diags s hab hbc hinv
    have k := exec_keeps ht
    have hself : t.withUnread x y s.haltReq s.diags = { t with b := x, c := y } := by
      rw [← k.haltReq, ← k.diags hinv]
      rfl
    rw [hself] at hxy
    exact ⟨t, ht, hxy⟩

/-! HALTREQ and the diagnostics through an instruction, a step and a run. -/

/-- `s` with another HALTREQ and another log. -/
def State.withLog (s : State) (h : Bool) (ds : List Diagnostic) : State := { s with haltReq := h, diags := ds }

theorem regB_regC_not_written {i : Instr} (hab : i ≠ .swab) (hbc : i ≠ .swbc) :
    Written.regB ∉ writes i ∧ Written.regC ∉ writes i := by
  cases i with
  | swab => exact absurd rfl hab
  | swbc => exact absurd rfl hbc
  | _ => simp [writes]

/-- The law of `exec_withUnread` for the two fields alone, the instruction leaving B and C as they are; it emits
nothing. -/
theorem exec_withLog_of_plain {i : Instr} (s : State) (h : Bool) (ds : List Diagnostic) (hab : i ≠ .swab)
    (hbc : i ≠ .swbc) (hinv : ∀ v, i ≠ .invsec v) :
    ∃ t new, exec i s = .next t ∧ t.haltReq = s.haltReq ∧ t.diags = s.diags ++ new ∧
      exec i (s.withLog h ds) = .next (t.withLog h (ds ++ new)) := by
  obtain ⟨t, ht, hlog⟩ := exec_withUnread s.b s.c h ds s hab hbc hinv
  obtain ⟨hb, hc⟩ := regB_regC_not_written hab hbc
  have k := exec_keeps ht
  have hself : t.withUnread s.b s.c h ds = t.withLog h ds := by
    rw [← k.regB hb, ← k.regC hc]
    rfl
  rw [hself] at hlog
  exact ⟨t, [], ht, k.haltReq, by rw [k.diags hinv, List.append_nil], by rw [List.append_nil]; exact hlog⟩

/-- Whatever HALTREQ and the log hold, an instruction keeps the one and appends the same events to the other. -/
theorem exec_withLog (i : Instr) (s : State) (h : Bool) (ds : List Diagnostic) :
    ∃ t new, exec i s = .next t ∧ t.haltReq = s.haltReq ∧ t.diags = s.diags ++ new ∧
      exec i (s.withLog h ds) = .next (t.withLog h (ds ++ new)) := by
  cases i with
  | invsec v => exact ⟨_, [.invalidSecondaryOperand v], rfl, rfl, rfl, rfl⟩
  | swab => exact ⟨_, [], rfl, rfl, (List.append_nil _).symm, by rw [List.append_nil]; rfl⟩
  | swbc => exact ⟨_, [], rfl, rfl, (List.append_nil _).symm, by rw [List.append_nil]; rfl⟩
  | _ => exact exec_withLog_of_plain s h ds (by simp) (by simp) (by simp)

theorem step_withLog (s : State) (h : Bool) (ds : List Diagnostic) :
    ∃ t new, step s = .next t ∧ t.haltReq = s.haltReq ∧ t.diags = s.diags ++ new ∧
      step (s.withLog h ds) = .next (t.withLog h (ds ++ new)) := by
  rw [step_eq_exec_decodePair, step_eq_exec_decodePair]
  exact exec_withLog _ { s with pc := (s.pc + 2) % s.cfg.memSize } h ds

theorem runSteps_withLog (k : Nat) (s : State) (h : Bool) (ds : List Diagnostic) :
    ∃ t new, runSteps k s = .next t ∧ t.haltReq = s.haltReq ∧ t.diags = s.diags ++ new ∧
      runSteps k (s.withLog h ds) = .next (t.withLog h (ds ++ new)) := by
  induction k generalizing s ds with
  | zero => exact ⟨s, [], rfl, rfl, (List.append_nil _).symm, by rw [List.append_nil]; rfl⟩
  | succ k ih =>
    obtain ⟨s', new, hstep, hhalt, hdiags, hstepLog⟩ := step_withLog s h ds
    obtain ⟨t, more, hrun, hhalt', hdiags', hrunLog⟩ := ih s' (ds ++ new)
    rw [runSteps_succ hstep, runSteps_succ hstepLog]
    exact ⟨t, new ++ more, hrun, hhalt'.trans hhalt, by rw [hdiags', hdiags, List.append_assoc],
      by rw [hrunLog, List.append_assoc]⟩

/-- Settles O45: the law of runs, from the state with its own log. -/
theorem stepsIgnoreHaltReq : Obligations.StepsIgnoreHaltReq := by
  intro k s h
  obtain ⟨t, new, hrun, hhalt, hdiags, hlog⟩ := runSteps_withLog k s h s.diags
  rw [← hdiags] at hlog
  exact ⟨t, hrun, hhalt, hlog⟩

/-- Settles O46: the law of runs, from the state with its own HALTREQ. -/
theorem diagnosticsNeverRead : Obligations.DiagnosticsNeverRead := by
  intro k s ds
  obtain ⟨t, new, hrun, hhalt, hdiags, hlog⟩ := runSteps_withLog k s s.haltReq ds
  have hself : t.withLog s.haltReq (ds ++ new) = { t with diags := ds ++ new } := by
    rw [← hhalt]
    rfl
  rw [hself] at hlog
  exact ⟨t, new, hrun, hdiags, hlog⟩

/-! The one instruction that emits. -/

theorem eq_invsec_of_decodePair {op v w : Nibble} (h : decodePair op v = .invsec w) :
    op = 0x0 ∧ v = w ∧ 10 ≤ w.toNat := by
  obtain ⟨hcells, hw⟩ := (onlySixInvalidWords [op, v] [] w).mp (congrArg (fun i => Except.ok (i, [])) h)
  obtain ⟨hop, hv⟩ : op = 0x0 ∧ v = w := by simpa using hcells
  exact ⟨hop, hv, hw⟩

/-- Settles O42: an instruction other than INVSEC leaves the log, and only the words 0x0A to 0x0F decode to
INVSEC. -/
theorem atMostOneDiagnostic : Obligations.AtMostOneDiagnostic := by
  intro s t h
  rw [step_eq_exec_decodePair] at h
  by_cases hinv : ∃ w, decodePair (memRead s s.pc) (memRead s (s.pc + 1)) = .invsec w
  · obtain ⟨w, hi⟩ := hinv
    obtain ⟨hop, hv, hw⟩ := eq_invsec_of_decodePair hi
    rw [hi, exec_invsec] at h
    obtain rfl := Host.Outcome.next.inj h
    exact .inr ⟨w, hw, hop, hv, rfl⟩
  · exact .inl ((exec_keeps h).diags (not_exists.mp hinv))

end Sys2Proof.Machine
end

section
/-! Where PC goes, step by step (10_state.md section 3, 70_reset_and_hazards.md section 3): O47 to O50 from what an
instruction can do to PC. -/

namespace Sys2Proof.Machine

theorem nextInstr_eq (s : State) : nextInstr s = decodePair (memRead s s.pc) (memRead s (s.pc + 1)) := by
  rw [nextInstr, fetch_normalisePc, fetch_eq]
  rfl

theorem step_eq_exec_nextInstr (s : State) :
    step s = exec (nextInstr s) { s with pc := (s.pc + 2) % s.cfg.memSize } := by
  rw [nextInstr_eq, step_eq_exec_decodePair]

theorem transfers_setPc (i : Instr) (s : State) (x : Nat) : transfers i (s.setPc x) = transfers i s := by
  cases i <;> rfl

/-- Everything a step can do to PC. -/
theorem step_pc_cases {s t : State} (h : step s = .next t) :
    (transfers (nextInstr s) s = false ∧ t.pc = (s.pc + 2) % s.cfg.memSize) ∨
      (∃ v, nextInstr s = .jmp v ∧ t.pc = (15 + v.toNat) % s.cfg.memSize) ∨
      ((nextInstr s = .skc ∨ nextInstr s = .skn ∨ nextInstr s = .ske) ∧ transfers (nextInstr s) s = true ∧
        t.pc = (s.pc + 4) % s.cfg.memSize) ∨
      (nextInstr s = .poppc ∧ 0 < s.sp ∧ t.pc = (memRead s (s.sp - 1)).toNat) := by
  rw [step_eq_exec_nextInstr] at h
  have hpc := exec_pc_cases h
  rw [show transfers (nextInstr s) { s with pc := (s.pc + 2) % s.cfg.memSize } = transfers (nextInstr s) s from
    transfers_setPc _ s _, Nat.mod_add_mod, Nat.add_assoc] at hpc
  exact hpc

theorem step_cfg {s t : State} (h : step s = .next t) : t.cfg = s.cfg := by
  rw [step_eq_exec_nextInstr] at h
  exact (exec_keeps h).cfg

/-- Every step answers a next state. -/
theorem step_answers (s : State) : ∃ t, step s = .next t := by
  obtain ⟨t, ht, -⟩ := step_setError_true s
  exact ⟨t, ht⟩

/-- A step that transfers no control moves PC two cells on. -/
theorem step_pc_of_not_transfers {s t : State} (h : step s = .next t) (hseq : transfers (nextInstr s) s = false) :
    t.pc = (s.pc + 2) % s.cfg.memSize := by
  rw [step_eq_exec_nextInstr] at h
  exact pcFrame _ _ _ h ((transfers_setPc _ s _).trans hseq)

/-- Settles O47, by induction on the number of steps: the first moves PC two cells on, and the rest are steps from
there. -/
theorem sequentialRun : Obligations.SequentialRun := by
  intro k
  induction k with
  | zero => exact fun s hpc _ => ⟨s, rfl, (Nat.mod_eq_of_lt hpc).symm⟩
  | succ k ih =>
    intro s _ hseq
    obtain ⟨s', hstep⟩ := step_answers s
    have hpc' : s'.pc = (s.pc + 2) % s.cfg.memSize :=
      step_pc_of_not_transfers hstep (hseq 0 k.succ_pos s rfl)
    have hlt : s'.pc < s'.cfg.memSize := by
      rw [hpc', step_cfg hstep]
      exact Nat.mod_lt _ s.cfg.memSize_pos
    obtain ⟨t, hrun, hpc⟩ := ih s' hlt fun j hj u hu =>
      hseq (j + 1) (Nat.succ_lt_succ hj) u ((runSteps_succ hstep j).trans hu)
    refine ⟨t, (runSteps_succ hstep k).trans hrun, ?_⟩
    rw [hpc, hpc', step_cfg hstep, Nat.mod_add_mod, show s.pc + 2 + 2 * k = s.pc + 2 * (k + 1) by omega]

/-- MEM_SIZE, a power of two above 1, is even (00_scope.md R8), so reducing an address keeps its parity. -/
theorem mod_memSize_mod_two {cfg : Config} (hcfg : cfg.Valid) (x : Nat) : x % cfg.memSize % 2 = x % 2 := by
  obtain ⟨hsize, -, -⟩ := hcfg
  have hwidth : cfg.addrWidth ≠ 0 := by
    intro hzero
    simp [Config.memSize, hzero] at hsize
  exact Nat.mod_mod_of_dvd x (dvd_pow_self 2 hwidth)

/-- Settles O48: without a JMP or a POPPC a step moves PC two or four cells on. -/
theorem parityKept : Obligations.ParityKept := by
  intro s t hcfg h hjmp hpoppc
  obtain ⟨-, hpc⟩ | ⟨v, hi, -⟩ | ⟨-, -, hpc⟩ | ⟨hi, -⟩ := step_pc_cases h
  · rw [hpc, mod_memSize_mod_two hcfg, Nat.add_mod_right]
  · exact absurd hi (hjmp v)
  · rw [hpc, mod_memSize_mod_two hcfg]
    omega
  · exact absurd hi hpoppc

/-- Settles O49: a jump target is 15 and a nibble, a popped PC a nibble. -/
theorem reachOfJumps : Obligations.ReachOfJumps := by
  intro s t hcfg h
  rw [step_eq_exec_nextInstr] at h
  constructor
  · rintro ⟨v, hi⟩
    rw [hi, exec_jmp, jumpTarget_mod hcfg] at h
    obtain rfl := Host.Outcome.next.inj h
    have hv := nibble_toNat_le v
    show 15 ≤ 15 + v.toNat ∧ 15 + v.toNat ≤ 30
    omega
  · intro hi hpos
    rw [hi, exec_poppc, popCell_of_pos (s := { s with pc := (s.pc + 2) % s.cfg.memSize }) _ hpos] at h
    obtain rfl := Host.Outcome.next.inj h
    exact nibble_toNat_le _

/-- A state that a step leaves as it is, any number of steps leaves as it is. -/
theorem runSteps_of_step_self {s : State} (h : step s = .next s) (n : Nat) : runSteps n s = .next s := by
  induction n with
  | zero => rfl
  | succ n ih => rw [runSteps_succ h, ih]

/-- Settles O50: the jump at its own target leaves PC where it was, and a jump changes nothing else. -/
theorem restingJumpRests : Obligations.RestingJumpRests := by
  intro n k s hcfg hpc hop hk
  have hk' : memRead s (s.pc + 1) = k := by
    rw [hpc, show 15 + k.toNat + 1 = 16 + k.toNat by omega, hk]
  refine runSteps_of_step_self ?_ n
  rw [step_of_pair (hpc ▸ hop) hk', decodePair_jmp, exec_jmp, jumpTarget_mod hcfg, ← hpc]

end Sys2Proof.Machine
end

section
/-! Canonical memories (20_memory.md section 1; log entry 3): an entry is listed exactly if its cell reads as it and
not as an unlisted one, and O51 from that. -/

namespace Sys2Proof.Machine

/-- Only a listed address reads as other than an unlisted cell. -/
theorem cellAt_of_unlisted {m : Memory} {x : Nat} (h : ∀ e ∈ m, e.1 ≠ x) : cellAt m x = unlistedCell := by
  induction m with
  | nil => rfl
  | cons e m ih =>
    obtain ⟨hne, hrest⟩ := List.forall_mem_cons.mp h
    rw [cellAt, if_neg hne, ih hrest]

theorem mem_iff_cellAt {m : Memory} (hm : Memory.wf m) (x : Nat) (v : Nibble) :
    (x, v) ∈ m ↔ cellAt m x = v ∧ v ≠ unlistedCell := by
  induction m with
  | nil => simp [cellAt, eq_comm]
  | cons e m ih =>
    obtain ⟨k, w⟩ := e
    obtain ⟨hlt, hrising⟩ := List.pairwise_cons.mp hm.1
    obtain ⟨hw, hlisted⟩ := List.forall_mem_cons.mp hm.2
    have hrest : cellAt m k = unlistedCell := cellAt_of_unlisted fun f hf => Nat.ne_of_gt (hlt f hf)
    rw [List.mem_cons, ih ⟨hrising, hlisted⟩, cellAt]
    by_cases hk : k = x
    · subst hk
      rw [if_pos rfl, hrest]
      constructor
      · rintro (h | ⟨h, hv⟩)
        · obtain rfl : v = w := congrArg Prod.snd h
          exact ⟨rfl, hw⟩
        · exact absurd h.symm hv
      · rintro ⟨rfl, -⟩
        exact .inl rfl
    · simp [hk, Ne.symm hk]

/-- Two canonical memories that read the same list the same entries, in the same rising order. -/
theorem eq_of_cellAt_eq {m n : Memory} (hm : Memory.wf m) (hn : Memory.wf n)
    (h : ∀ x, cellAt m x = cellAt n x) : m = n := by
  have hirrefl : Std.Irrefl fun e f : Nat × Nibble => e.1 < f.1 := ⟨fun e => Nat.lt_irrefl e.1⟩
  have hanti : Std.Antisymm fun e f : Nat × Nibble => e.1 < f.1 :=
    ⟨fun _ _ hab hba => absurd hab (Nat.lt_asymm hba)⟩
  refine List.Pairwise.eq_of_mem_iff hm.1 hn.1 fun ⟨x, v⟩ => ?_
  rw [mem_iff_cellAt hm, mem_iff_cellAt hn, h]

/-! A write keeps the canonical form, so two memories written differently are equal if they read the same. -/

theorem putCell_putCell {m : Memory} (hm : Memory.wf m) (x : Nat) (v : Nibble) :
    putCell (putCell m x v) x v = putCell m x v := by
  refine eq_of_cellAt_eq (putCell_wf x v (putCell_wf x v hm)) (putCell_wf x v hm) fun y => ?_
  rw [cellAt_putCell (putCell m x v)]
  split
  · next hy => rw [hy, cellAt_putCell, if_pos rfl]
  · rfl

theorem putCell_cellAt {m : Memory} (hm : Memory.wf m) (x : Nat) : putCell m x (cellAt m x) = m := by
  refine eq_of_cellAt_eq (putCell_wf x _ hm) hm fun y => ?_
  rw [cellAt_putCell]
  split
  · next hy => rw [hy]
  · rfl

/-- Settles O51. -/
theorem canonicalMemoryIsItsContents : Obligations.CanonicalMemoryIsItsContents :=
  ⟨fun _ _ => eq_of_cellAt_eq, fun s _ v hs =>
    ⟨congrArg s.setMem (putCell_putCell hs _ v), congrArg s.setMem (putCell_cellAt hs _)⟩⟩

end Sys2Proof.Machine
end

section
/-! Reset and load (50_host_interface.md R166 to R169): the values after reset(), the cells after load(), and O52 to
O54 from these. -/

namespace Sys2Proof.Machine

theorem memRead_of_nil {s : State} (h : s.mem = []) (x : Nat) : memRead s x = 0 := by
  rw [memRead, h]
  rfl

/-- Settles O52. -/
theorem resetValues : Obligations.ResetValues :=
  fun _ => ⟨rfl, memRead_of_nil rfl, fun _ _ => ⟨memRead_of_nil rfl _, rfl⟩⟩

/-! The cells after a sequence is written at addresses that need no reduction. -/

theorem writeCells_cfg (vs : List Nibble) (x : Nat) (s : State) : (writeCells vs x s).cfg = s.cfg := by
  rw [writeCells_eq]

theorem memRead_memWrite_of_lt {s : State} {x y : Nat} (v : Nibble) (hx : x < s.cfg.memSize)
    (hy : y < s.cfg.memSize) : memRead (memWrite s x v) y = if y = x then v else memRead s y := by
  rw [memRead_memWrite, Nat.mod_eq_of_lt hx, Nat.mod_eq_of_lt hy]

/-- Writing a sequence leaves the cells before and after it. -/
theorem memRead_writeCells_outside {vs : List Nibble} {x y : Nat} {s : State}
    (hfit : x + vs.length ≤ s.cfg.memSize) (hy : y < s.cfg.memSize) (hout : y < x ∨ x + vs.length ≤ y) :
    memRead (writeCells vs x s) y = memRead s y := by
  induction vs generalizing x s with
  | nil => rfl
  | cons v vs ih =>
    rw [List.length_cons] at hfit hout
    rw [writeCells, ih (s := memWrite s x v) (by rw [memWrite_cfg]; omega) hy (by omega),
      memRead_memWrite_of_lt v (by omega) hy, if_neg (by omega)]

/-- Cell `x + i` holds value `i`: the first value is written first and nothing after it writes there. -/
theorem memRead_writeCells_inside {vs : List Nibble} {x i : Nat} {s : State}
    (hfit : x + vs.length ≤ s.cfg.memSize) (hi : i < vs.length) :
    memRead (writeCells vs x s) (x + i) = vs[i] := by
  induction vs generalizing x i s with
  | nil => exact absurd hi (Nat.not_lt_zero i)
  | cons v vs ih =>
    rw [List.length_cons] at hfit hi
    have hfit' : x + 1 + vs.length ≤ (memWrite s x v).cfg.memSize := by
      rw [memWrite_cfg]
      omega
    cases i with
    | zero =>
      rw [writeCells, memRead_writeCells_outside hfit' (by rw [memWrite_cfg]; omega) (by omega)]
      exact memRead_memWrite_same s x v
    | succ i =>
      rw [writeCells, show x + (i + 1) = x + 1 + i by omega, ih hfit' (by omega)]
      rfl

/-- Settles O53. -/
theorem loadWritesProgram : Obligations.LoadWritesProgram := by
  intro seq s hcfg
  obtain ⟨hsize, -, -⟩ := hcfg
  refine ⟨fun hfits => ?fits, fun hlong => ?long⟩
  case fits =>
    have hfit : 15 + seq.length ≤ s.cfg.memSize := by omega
    obtain ⟨-, hload⟩ | ⟨hlong, -⟩ := load_cases seq s
    · exact ⟨_, hload, writeCells_eq seq 15 s, fun i hi => memRead_writeCells_inside hfit hi,
        fun x hx hout => memRead_writeCells_outside hfit hx hout⟩
    · omega
  case long =>
    obtain ⟨hfits, -⟩ | ⟨-, hload⟩ := load_cases seq s
    · omega
    · exact ⟨hload, by rw [hostMove, hload]⟩

/-- What a successful load() was (R168). -/
theorem load_eq_loaded {seq : List Nibble} {s t : State} (h : load seq s = .loaded t) :
    seq.length ≤ s.cfg.memSize - 15 ∧ t = writeCells seq 15 s := by
  obtain ⟨hfits, hload⟩ | ⟨-, hload⟩ := load_cases seq s <;> rw [hload] at h <;> cases h
  exact ⟨hfits, rfl⟩

/-- Settles O54: PC is 15 after reset, and load() has put the pair at 15 and 16. -/
theorem firstPairRunsFirst : Obligations.FirstPairRunsFirst := by
  intro cfg op v rest t hcfg h
  obtain ⟨hsize, -, -⟩ := hcfg
  obtain ⟨hfits, rfl⟩ := load_eq_loaded h
  rw [State.resetWith_cfg] at hfits
  have hfit : 15 + (op :: v :: rest).length ≤ (State.resetWith cfg).cfg.memSize := by
    rw [State.resetWith_cfg]
    omega
  have hpc : (writeCells (op :: v :: rest) 15 (State.resetWith cfg)).pc = 15 := by
    rw [writeCells_eq]
    rfl
  have hop := memRead_writeCells_inside (i := 0) hfit (by simp)
  have hv := memRead_writeCells_inside (i := 1) hfit (by simp)
  have hnext : (15 + 2) % cfg.memSize = 17 := Nat.mod_eq_of_lt (by omega)
  constructor
  · rw [nextInstr_eq, hpc, hop, hv]
    rfl
  · rw [step_eq_exec_decodePair, hpc, hop, hv, writeCells_cfg, State.resetWith_cfg, hnext]
    rfl

end Sys2Proof.Machine
end

section
/-! The run driver, the Loader's value check and the ports (50_host_interface.md R170 to R176): O56 to O59. -/

namespace Sys2Proof.Machine

/-- HALTREQ is kept by a step (R172), so the driver of a state with HALTREQ 0 never stops early. -/
theorem drive_eq_runSteps {s : State} (k : Nat) (hrun : s.haltReq = false) : drive k s = runSteps k s := by
  induction k generalizing s with
  | zero => rfl
  | succ k ih =>
    obtain ⟨t, -, hstep, hhalt, -⟩ := step_withLog s s.haltReq s.diags
    rw [drive_succ hrun hstep, runSteps_succ hstep, ih (hhalt.trans hrun)]

theorem drive_of_haltReq {s : State} (k : Nat) (hhalt : s.haltReq = true) : drive k s = .next s := by
  cases k with
  | zero => rfl
  | succ k => rw [drive, if_pos hhalt]

/-- Settles O56. -/
theorem driverStepsUntilReset : Obligations.DriverStepsUntilReset :=
  fun k _ => ⟨drive_eq_runSteps k rfl, drive_of_haltReq k rfl⟩

/-- Settles O58. -/
theorem portsResetAndStep : Obligations.PortsResetAndStep := by
  intro p s
  refine ⟨fun hrst => by rw [clockEdge, if_pos hrst], fun hrst hld hack => ⟨fun hstep => ?_, fun hstep => ?_⟩⟩
  · obtain ⟨t, ht⟩ := step_answers s
    simp [clockEdge, acknowledgeRun, hrst, hld, hack, hstep, ht]
  · simp [clockEdge, acknowledgeRun, hrst, hld, hack, hstep]

/-- A clock of the load port is one memory write. -/
theorem clockEdges_loadPulses (vs : List Nibble) (x : Nat) (s : State) :
    clockEdges (loadPulses vs x) s = .next (writeCells vs x s) := by
  induction vs generalizing x s with
  | nil => rfl
  | cons v vs ih => exact ih (x + 1) (memWrite s x v)

/-- Settles O59. -/
theorem portLoadRefinesLoad : Obligations.PortLoadRefinesLoad := by
  intro seq s t h
  obtain ⟨-, rfl⟩ := load_eq_loaded h
  exact clockEdges_loadPulses seq 15 s

/-! The value check (R170): each value by itself, then the sequence by induction. -/

theorem nibbleOfNat_of_lt {n : Nat} (h : n < 16) : nibbleOfNat n = some (BitVec.ofNat 4 n) := if_pos h

theorem nibbleOfNat_of_ge {n : Nat} (h : 16 ≤ n) : nibbleOfNat n = none := if_neg (Nat.not_lt.mpr h)

/-- The check accepts nibbles, from any index, as they are. -/
theorem checkValuesFrom_toNat (k : Nat) (vs : List Nibble) :
    checkValuesFrom k (vs.map BitVec.toNat) = .ok vs := by
  induction vs generalizing k with
  | nil => rfl
  | cons v vs ih =>
    simp [checkValuesFrom, ih, nibbleOfNat_of_lt v.isLt]

/-- The check answers at some index of a value outside 0 to 15, where there is one. -/
theorem checkValuesFrom_of_exists {ns : List Nat} (k : Nat) (h : ∃ n ∈ ns, 16 ≤ n) :
    ∃ j, checkValuesFrom k ns = .error (.valueOutOfRange j) := by
  induction ns generalizing k with
  | nil => simp at h
  | cons n ns ih =>
    by_cases hn : n < 16
    · obtain ⟨j, hj⟩ := ih (k + 1) (by simpa [Nat.not_le.mpr hn] using h)
      exact ⟨j, by simp [checkValuesFrom, nibbleOfNat_of_lt hn, hj]⟩
    · exact ⟨k, by simp [checkValuesFrom, nibbleOfNat_of_ge (Nat.not_lt.mp hn)]⟩

/-- Numbers that are all 0 to 15 are those of nibbles. -/
theorem exists_map_toNat {ns : List Nat} (h : ¬ ∃ n ∈ ns, 16 ≤ n) :
    ∃ vs : List Nibble, vs.map BitVec.toNat = ns := by
  refine ⟨ns.map (BitVec.ofNat 4), ?_⟩
  rw [List.map_map]
  refine (List.map_congr_left fun n hn => ?_).trans (List.map_id ns)
  have hlt : n < 16 := Nat.not_le.mp fun hge => h ⟨n, hn, hge⟩
  exact (BitVec.toNat_ofNat n 4).trans (Nat.mod_eq_of_lt hlt)

/-- Everything the value check can do: report a value outside 0 to 15, or accept the nibbles the numbers are. -/
theorem checkValues_cases (ns : List Nat) :
    ((∃ n ∈ ns, 16 ≤ n) ∧ ∃ j, checkValues ns = .error (.valueOutOfRange j)) ∨
      ((¬ ∃ n ∈ ns, 16 ≤ n) ∧ ∃ vs, vs.map BitVec.toNat = ns ∧ checkValues ns = .ok vs) := by
  by_cases h : ∃ n ∈ ns, 16 ≤ n
  · exact .inl ⟨h, checkValuesFrom_of_exists 0 h⟩
  · obtain ⟨vs, rfl⟩ := exists_map_toNat h
    exact .inr ⟨h, vs, rfl, checkValuesFrom_toNat 0 vs⟩

/-- Settles O57. -/
theorem loaderAcceptsNibblesOnly : Obligations.LoaderAcceptsNibblesOnly := by
  refine ⟨fun ns vs => ⟨fun hok => ?accepted, ?accepts⟩, fun ns => ⟨checkValuesFrom_of_exists 0, ?reported⟩⟩
  case accepts =>
    rintro rfl
    exact checkValuesFrom_toNat 0 vs
  case accepted =>
    obtain ⟨-, j, herr⟩ | ⟨-, ws, hws, hok'⟩ := checkValues_cases ns
    · rw [herr] at hok
      cases hok
    · rw [hok'] at hok
      obtain rfl := Except.ok.inj hok
      exact hws
  case reported =>
    rintro ⟨k, herr⟩
    obtain ⟨h, -⟩ | ⟨-, vs, -, hok⟩ := checkValues_cases ns
    · exact h
    · rw [hok] at herr
      cases herr

end Sys2Proof.Machine
end
